-- ==== Sys2Proof/Word.lean ====
section
/-! DEFINITION. The word types of the part: bytes, addresses, sequences, identities and lines. -/

namespace Sys2Proof

abbrev Byte := BitVec 8

/-- A 48-bit byte address (00_scope.md, Addresses). -/
abbrev Addr := BitVec 48

/-- A journal sequence, a notice ring position or a notice sequence: 32 bits that wrap (00_scope.md, Sequence numbers). -/
abbrev Seq := BitVec 32

/-- An epoch number; 0 names no epoch (00_scope.md, Epoch numbers). -/
abbrev EpochNo := BitVec 32

/-- A granule, named by the upper 40 bits of the addresses of its 256 bytes (00_scope.md, Units of memory). -/
abbrev Granule := BitVec 40

/-- The 64 bytes of one line. -/
abbrev Line := Vector Byte 64

/-- The identity of a request on a link: a stream, 0 to 63, and a tag, 0 to 255 (R127, R132). -/
structure Ident where
  stream : BitVec 6
  tag : BitVec 8
  deriving DecidableEq, Repr

end Sys2Proof
end

