-- ==== Sys2Proof/Syntax.lean ====
section
/-! DEFINITION. The commands of the part: one constructor per row of spec/opcode_table.json, with the operands the row's rule
says the event carries. -/

namespace Sys2Proof

/-- The kind of a request (R127). -/
inductive ReqKind where
  | read
  | write
  deriving DecidableEq, Repr

/-- An upstream request as it reaches the U-link port (R127). The port checks the length, so the field may hold any number. -/
structure Request where
  kind : ReqKind
  id : Ident
  addr : Addr
  length : Nat
  /-- one byte for each byte of the length; empty for a READ -/
  data : List Byte
  /-- one enable flag for each byte of the length; empty for a READ -/
  mask : List Bool
  deriving DecidableEq, Repr

/-- The two statuses of a D-link response (R132). -/
inductive DStatus where
  | ok
  | error
  deriving DecidableEq, Repr

/-- Which of the two registers of a pair a management write names: CW_BASE_LO or _HI (R183), CMD_STREAMS_LO or _HI (R184). -/
inductive RegHalf where
  | lo
  | hi
  deriving DecidableEq, Repr

inductive Instr where
  /-- UPSTREAM_REQUEST (R127): the U-link port takes a request whole. -/
  | upstreamRequest (r : Request)
  /-- ALLOCATION_REPORT (R7): the epoch controller takes the oldest allocation report. -/
  | allocationReport
  /-- UPSTREAM_LINK_RESET (R139). -/
  | upstreamLinkReset
  /-- ARBITER_ISSUE (R137): the D-link port can take a request; `want` is the identity the arbiter takes from its pool. -/
  | arbiterIssue (want : Ident)
  /-- CAPTURE_READS_ISSUE (R52): a slot issues its old-image reads. -/
  | captureReadsIssue (slot : Fin 8)
  /-- FORWARD_RESPONSE (R134): the D-link response to a forwarded request. -/
  | forwardResponse (id : Ident) (st : DStatus) (data : List Byte)
  /-- OLD_IMAGE_READ_ANSWER (R52). -/
  | oldImageReadAnswer (id : Ident) (st : DStatus) (data : Line)
  /-- RECORD_WRITE_ANSWER (R54): the answer to a PRE_IMAGE line write. -/
  | recordWriteAnswer (id : Ident) (st : DStatus)
  /-- VOID_WRITE_ANSWER (R58). -/
  | voidWriteAnswer (id : Ident) (st : DStatus)
  /-- TRIGGER_RESPONSE (R55). -/
  | triggerResponse (id : Ident) (st : DStatus)
  /-- MARKER_WRITE_ANSWER (R11). -/
  | markerWriteAnswer (id : Ident) (st : DStatus)
  /-- FRONTIER_ADVANCE_REPORT (R12): the epoch controller takes the oldest frontier advance. -/
  | frontierAdvanceReport
  /-- RESTORE_READ_ANSWER (R109). -/
  | restoreReadAnswer (id : Ident) (st : DStatus) (data : Line)
  /-- WRITE_BACK_ISSUE (R111). -/
  | writeBackIssue
  /-- WRITE_BACK_ANSWER (R111). -/
  | writeBackAnswer (id : Ident) (st : DStatus)
  /-- WALK_END (R114): the epoch controller takes the end of the walk. -/
  | walkEnd
  /-- RESTORE_FAULT_TAKEN (R115). -/
  | restoreFaultTaken
  /-- RESTORE_STOP (R119). -/
  | restoreStop
  /-- NOTICE_WRITE_ANSWER (R169). -/
  | noticeWriteAnswer (id : Ident) (st : DStatus)
  /-- STATUS_LINE_ANSWER (R158). -/
  | statusLineAnswer (id : Ident) (st : DStatus)
  /-- STATUS_UPDATE_REQUEST (R156): the status writer takes an update request. -/
  | statusUpdateRequest
  /-- DLINK_STALE_RESPONSE (R132): a D-link response whose identity is not in use. -/
  | dlinkStaleResponse (id : Ident) (st : DStatus) (data : List Byte)
  /-- REEVALUATION_PASS (R89): the hold queue runs one pass. -/
  | reevaluationPass
  /-- HOLD_EXPIRY (R92): the expiry of the held request with this identity. -/
  | holdExpiry (id : Ident)
  /-- EXHAUSTION_REPORT (R93): the epoch controller takes a journal exhaustion report. -/
  | exhaustionReport
  /-- QUIET_EXPIRY (R14). -/
  | quietExpiry
  /-- FLUSH_EXPIRY (R175). -/
  | flushExpiry
  /-- WINDOW_SET (R28): like the twelve rows after it, the taking of the oldest queued command, whose line holds the
  arguments (R150, R194). -/
  | windowSet
  /-- JOURNAL_SET (R66). -/
  | journalSet
  /-- JOURNAL_CLEAR (R19). -/
  | journalClear
  /-- JOURNAL_RELEASE (R15). -/
  | journalRelease
  /-- EPOCH_COMMIT (R8). -/
  | epochCommit
  /-- EPOCH_ROLLBACK (R103). -/
  | epochRollback
  /-- ROLLBACK_ABORT (R117). -/
  | rollbackAbort
  /-- EPOCH_RESUME (R17). -/
  | epochResume
  /-- NOTICE_SET (R171). -/
  | noticeSet
  /-- NOTICE_ACK (R173). -/
  | noticeAck
  /-- TIMING_SET (R153); `lwmFirst` says which owner hands its notices over first, the journal unit or the hold queue (R165). -/
  | timingSet (lwmFirst : Bool)
  /-- STATUS_SNAPSHOT (R154). -/
  | statusSnapshot
  /-- BAD_OPCODE (R150): the taking of a command whose opcode names none. -/
  | badOpcode
  /-- CW_ENABLE (R182): a CONTROL write with SOFT_RESET 0 and this CW_ENABLE bit. -/
  | cwEnable (enable : Bool)
  /-- SOFT_RESET (R191): a CONTROL write with SOFT_RESET 1 and this CW_ENABLE bit. -/
  | softReset (enable : Bool)
  /-- CW_BASE_WRITE (R183). -/
  | cwBaseWrite (half : RegHalf) (data : BitVec 32)
  /-- CMD_STREAMS_WRITE (R184). -/
  | cmdStreamsWrite (half : RegHalf) (data : BitVec 32)
  /-- FAULT_WRITE (R186). -/
  | faultWrite (data : BitVec 32)
  /-- MGMT_WRITE_REFUSED (R181): a write to IDENT, DEVSTATE, EPOCH or an unassigned register. -/
  | mgmtWriteRefused (reg : BitVec 4) (data : BitVec 32)
  /-- FRAME_ABANDONED (R180): select is deasserted after these bits, fewer than forty, in the order shifted. -/
  | frameAbandoned (bits : List Bool)
  /-- POWER_ON_RESET (R190): RESET is asserted. -/
  | powerOnReset
  /-- RESET_DEASSERTED (R190). -/
  | resetDeasserted
  deriving DecidableEq, Repr

end Sys2Proof
end

