-- ==== Sys2Proof/Config.lean ====
section
/-! DEFINITION. What the part fixes: its capacities and the constants of its registers and formats. No value the manual leaves
open stands here: each open choice is an operand of a command, so that a claim about every command covers every choice. -/

namespace Sys2Proof.Config

/-- The most granules the granule table holds (R47). -/
def tableCapacity : Nat := 2048

/-- The most requests the hold queue holds (R85). -/
def holdCapacity : Nat := 32

/-- The most entries the epoch index holds (R6). -/
def indexCapacity : Nat := 16

/-- The most commands the command queue holds (R148). -/
def commandCapacity : Nat := 8

/-- The most notices the on-chip buffer holds (R165). -/
def noticeCapacity : Nat := 16

/-- The largest 32-bit count, at which the saturating counters stop (R7, R166). -/
def countMax : Nat := 4294967295

/-- The largest journal, in slots (R65). -/
def maxSlots : Nat := 1048576

/-- The last byte of the address space (00_scope.md, Addresses). -/
def lastAddress : Nat := 281474976710655

/-- What IDENT reads (R198). -/
def identValue : BitVec 32 := 0x24100001

/-- The value of a command line's format marker field (R194). -/
def formatMarker : Nat := 0x7C1E

/-- tHOLD after power-on and soft reset, in µs (R96). -/
def holdReset : Nat := 2000

/-- tFLUSH after power-on and soft reset, in µs (R177). -/
def flushReset : Nat := 100

end Sys2Proof.Config
end

