-- ==== Sys2Proof/Machine/State.lean ====
section
/-! DEFINITION. The state of the part, grouped by the block that owns each item (00_scope.md, Block diagram), and its value after
power-on reset. -/

namespace Sys2Proof.Machine

/-- Why a step may stop with a fault: for no reason. No rule of the manual lets an event stop the part; the faults it names
(capture read, journal write, restore, notice path, status path) are effects on State. -/
inductive Fault where
  deriving DecidableEq, Repr

/-- Why a step may refuse a command. -/
inductive Refusal where
  /-- Raised by an `exec` arm for a command that has no meaning yet (safe); no arm raises it. -/
  | notModelled (mnemonic : String)
  deriving DecidableEq, Repr

/-! ### Management port -/

/-- The device states (R187). -/
inductive DeviceState where
  | offline
  | listening
  | running
  deriving DecidableEq, Repr

/-- The FAULT register's sticky bits (R186). -/
structure FaultBits where
  noticePath : Bool
  statusPath : Bool
  mgmtRefused : Bool
  deriving DecidableEq, Repr

/-- A frame in progress (R180): the bits received so far, first bit first, and the value captured for a read when the command byte
was taken; it stays 0 in a write. -/
structure Frame where
  bits : List Bool
  captured : BitVec 32
  deriving DecidableEq, Repr

/-- An event on the pins of the management port: MG_SEL asserted, one bit clocked in on MG_DIN, MG_SEL deasserted (R180). -/
inductive SerialEvent where
  | select
  | bit (b : Bool)
  | deselect
  deriving DecidableEq, Repr

/-- What the management port owns (10_management_port_and_device_states.md, the table before R180). -/
structure Mgmt where
  device : DeviceState
  cwEnable : Bool
  cwBase : Addr
  /-- CMD_STREAMS: bit k is the membership of stream k -/
  cmdStreams : BitVec 64
  fault : FaultBits
  /-- the frame being shifted -/
  frame : Option Frame
  /-- device time, in µs -/
  time : BitVec 32
  /-- the bits driven on MG_DOUT from the ninth clock of the last frame on, first bit first (R180), and the zeros driven while RESET
  is asserted (R190); nothing is recorded for the command byte (log 32) -/
  dout : List Bool
  deriving DecidableEq, Repr

/-! ### Window unit -/

/-- The modes of a watch window (R24). -/
inductive WindowMode where
  | off
  | journal
  | guard
  deriving DecidableEq, Repr

/-- A watch window (R24). -/
structure Window where
  mode : WindowMode
  base : Addr
  /-- the last byte of the range -/
  limit : Addr
  quietReload : Bool
  guardReport : Bool
  deriving DecidableEq, Repr

/-- A window in mode OFF (R24). -/
def Window.cleared : Window := ⟨.off, 0, 0, false, false⟩

/-! ### Epoch controller -/

/-- The broken causes (R4). -/
inductive BrokenCause where
  | exhausted
  | journalFault
  | restoreFault
  | aborted
  deriving DecidableEq, Repr

/-- The engine states, with the broken cause in BROKEN (R2); `absent` while the device is not RUNNING. -/
inductive Engine where
  | absent
  | capturing
  | draining
  | restoring
  | broken (cause : BrokenCause)
  deriving DecidableEq, Repr

/-- The states of an index entry (R6). -/
inductive EntryState where
  | opened
  | closing
  | closed
  deriving DecidableEq, Repr

/-- The origins of an epoch marker (R9). -/
inductive MarkOrigin where
  | command
  | quiet
  deriving DecidableEq, Repr

/-- An entry of the epoch index (R6). The record count and the origin are kept for the EPOCH_COMMITTED notice (R12). -/
structure IndexEntry where
  number : EpochNo
  first : Seq
  marker : Option Seq
  state : EntryState
  recordCount : Nat
  origin : Option MarkOrigin
  deriving DecidableEq, Repr

/-- An EPOCH_MARK whose five line writes are not all answered (R11). -/
structure MarkerWrite where
  sequence : Seq
  awaited : Nat
  errorSeen : Bool
  deriving DecidableEq, Repr

/-- The quiet timer (R13); `running 0` has run out, and its expiry is not yet taken. -/
inductive QuietTimer where
  | stopped
  | running (remaining : Nat)
  deriving DecidableEq, Repr

/-- What the capture unit reports of an allocation (R7). -/
structure AllocReport where
  epoch : EpochNo
  spilled : Bool
  deriving DecidableEq, Repr

/-- What the epoch controller owns (01_epochs.md, the table before R2). -/
structure EpochController where
  engine : Engine
  current : EpochNo
  /-- oldest first -/
  index : List IndexEntry
  captureCount : Nat
  spillCount : Nat
  target : Option EpochNo
  /-- the unanswered marker writes -/
  markers : List MarkerWrite
  quiet : QuietTimer
  /-- tQUIET, in ms; 0 is off -/
  tQuiet : Nat
  /-- allocation reports not yet taken, oldest first (R7) -/
  allocReports : List AllocReport
  /-- frontier advances not yet taken, oldest first (R12) -/
  advances : List Seq
  /-- journal exhaustion reports not yet taken (R93) -/
  exhaustions : Nat
  deriving DecidableEq, Repr

/-! ### Journal unit -/

/-- What the journal unit owns (04_the_journal_ring.md, the table before R65). -/
structure Journal where
  base : Addr
  /-- N; 0 while no journal is configured -/
  slots : Nat
  head : Seq
  frontier : Seq
  release : Seq
  completed : List Seq
  lwm : Nat
  armed : Bool
  deriving DecidableEq, Repr

/-! ### Capture unit -/

/-- The record kinds a capture slot writes (R50). -/
inductive SlotKind where
  | preImage
  | void
  deriving DecidableEq, Repr

/-- The phases of a capture (R50). -/
inductive Phase where
  | readingOld
  | writingRecord
  | forwarding
  deriving DecidableEq, Repr

/-- A busy capture slot (R50). -/
structure CaptureSlot where
  granule : Granule
  epoch : EpochNo
  sequence : Seq
  window : Fin 16
  spilled : Bool
  /-- absent after an upstream link reset or a capture read fault -/
  trigger : Option Request
  /-- the triggering stream, recorded even when the trigger is absent (R53) -/
  stream : BitVec 6
  kind : SlotKind
  phase : Phase
  image : Vector (Option Line) 4
  awaited : Nat
  errorSeen : Bool
  /-- the old-image reads have been issued (R52) -/
  readsIssued : Bool
  deriving DecidableEq, Repr

/-- What the capture unit owns: the granule table (R47) and the capture slots (R50). -/
structure Capture where
  table : List Granule
  slots : Vector (Option CaptureSlot) 8
  deriving DecidableEq, Repr

/-! ### Hold queue -/

/-- The hold causes (R86). -/
inductive HoldCause where
  | order
  | slotWait
  | journalFull
  | fence
  deriving DecidableEq, Repr

/-- A held request (R85); its granule is computed from the address. -/
structure HeldEntry where
  request : Request
  window : Fin 16
  cause : HoldCause
  arrival : BitVec 32
  exhausted : Bool
  deriving DecidableEq, Repr

/-- What the hold queue owns (R85, R88). -/
structure Hold where
  /-- oldest first -/
  entries : List HeldEntry
  /-- tHOLD, in µs -/
  tHold : Nat
  /-- passes caused and not yet run (R88) -/
  passes : Nat
  deriving DecidableEq, Repr

/-! ### Restore engine -/

/-- The restore phases (06_rollback.md, the table before R103). -/
inductive RestorePhase where
  | idle
  | reading
  | writingBack
  deriving DecidableEq, Repr

/-- The reasons of a restore fault (R115). -/
inductive RestoreReason where
  | header
  | sequence
  | epoch
  | image
  | readError
  | writeError
  deriving DecidableEq, Repr

/-- What the restore engine hands to the epoch controller (R113, R115, R119). -/
inductive RestoreReport where
  | walkEnd
  | fault (reason : RestoreReason)
  | stop
  deriving DecidableEq, Repr

/-- What the restore engine owns (06_rollback.md, the table before R103). -/
structure Restore where
  phase : RestorePhase
  cursor : Seq
  floor : Seq
  /-- the record in hand: the header line, then the four image lines -/
  hand : Vector (Option Line) 5
  awaited : Nat
  errorSeen : Bool
  applied : Nat
  abortPending : Bool
  /-- in WRITING_BACK, the four write-backs have been issued (R111) -/
  issued : Bool
  /-- handed to the epoch controller and not yet taken -/
  report : Option RestoreReport
  deriving DecidableEq, Repr

/-! ### Links -/

/-- The statuses of an upstream response (R129). -/
inductive Status where
  | ok
  | retry
  | refused
  | fenced
  | expired
  | captureFailed
  | memError
  deriving DecidableEq, Repr

/-- An upstream response: a READ_DATA for a READ, a WRITE_ACK for a WRITE (R129). -/
structure Response where
  kind : ReqKind
  id : Ident
  status : Status
  data : List Byte
  deriving DecidableEq, Repr

/-- What the U-link port owns (R128). -/
structure ULink where
  outstanding : List Ident
  /-- the responses returned, oldest first: what the port has put on the U-link -/
  returned : List Response
  deriving DecidableEq, Repr

/-- The traffic classes (R136). -/
inductive TrafficClass where
  | forward
  | capture
  | restore
  | report
  deriving DecidableEq, Repr

/-- The origin of a D-link request: the piece of work its response is handed to (R132). -/
inductive Origin where
  /-- an upstream request; `dropped` is its dropped mark (R139), `byCapture` says that the capture unit forwarded it (R136) -/
  | forwarded (id : Ident) (kind : ReqKind) (dropped : Bool) (byCapture : Bool)
  /-- the trigger of a capture slot (R54) -/
  | trigger (slot : Fin 8)
  /-- an old-image read of one line of a slot's granule (R52) -/
  | oldRead (slot : Fin 8) (line : Fin 4)
  /-- a line write of a slot's PRE_IMAGE record (R53) -/
  | record (slot : Fin 8)
  /-- the header write of a slot's VOID record (R58) -/
  | void (slot : Fin 8)
  /-- a line write of the EPOCH_MARK at a sequence (R11) -/
  | marker (sequence : Seq)
  /-- a read of the restore walk: part 0 is the header, parts 1 to 4 the image lines (R109) -/
  | restoreRead (part : Fin 5)
  /-- a write-back (R111) -/
  | writeBack
  /-- a notice ring write (R169) -/
  | notice
  /-- a status line write (R158) -/
  | status
  /-- a device-originated request whose work a soft reset has ended: its response is ignored (R141) -/
  | abandoned
  deriving DecidableEq, Repr

/-- A D-link request, ready in its class or issued (R132, R136). -/
structure DRequest where
  kind : ReqKind
  addr : Addr
  length : Nat
  data : List Byte
  mask : List Bool
  origin : Origin
  deriving DecidableEq, Repr

/-- A D-link identity in use, with its origin (R132). -/
structure InUse where
  id : Ident
  origin : Origin
  deriving DecidableEq, Repr

/-- A request as the D-link saw it: the part's identity and the request's own items. Its origin and its class stay inside the part
(R143). -/
structure Issued where
  id : Ident
  kind : ReqKind
  addr : Addr
  length : Nat
  data : List Byte
  mask : List Bool
  deriving DecidableEq, Repr

/-- What the D-link arbiter owns (R132, R136, R137). -/
structure DLink where
  /-- the class queues, oldest first -/
  forward : List DRequest
  capture : List DRequest
  restore : List DRequest
  report : List DRequest
  lastServed : TrafficClass
  inUse : List InUse
  /-- the requests issued, oldest first: what the arbiter has put on the D-link -/
  issued : List Issued
  deriving DecidableEq, Repr

/-! ### Command decoder and command unit -/

/-- The result codes (R152). -/
inductive Result where
  | done
  | started
  | badOpcode
  | badArgument
  | state
  | busy
  | overlap
  | epochActive
  | indexFull
  | journalFull
  | notRecoverable
  | noJournal
  | unknownEpoch
  deriving DecidableEq, Repr

/-- A queued command (R148); `args` holds the line as written. -/
structure QueuedCommand where
  stream : BitVec 6
  line : Nat
  opcode : Byte
  tag : BitVec 16
  args : Line
  deriving DecidableEq, Repr

/-- The command unit's record of the command taken last (R151). -/
structure LastCommand where
  tag : BitVec 16
  opcode : Byte
  result : Result
  deriving DecidableEq, Repr

/-- What the command decoder and the command unit own (08_the_command_window.md, the table before R144). -/
structure CommandUnit where
  /-- oldest first -/
  queue : List QueuedCommand
  taken : BitVec 32
  last : Option LastCommand
  deriving DecidableEq, Repr

/-! ### Status writer -/

/-- A status block write under way (R158). -/
structure StatusWrite where
  /-- CW_BASE when the write was begun -/
  base : Addr
  block : Vector Line 4
  /-- the line being written, counted from line 60 -/
  line : Fin 4
  /-- the write stops after the line now out (R161) -/
  stopping : Bool
  deriving DecidableEq, Repr

/-- What the status writer owns (R156 to R158). -/
structure StatusWriter where
  sequence : BitVec 32
  inFlight : Option StatusWrite
  updatePending : Bool
  /-- update requests not yet taken (R156) -/
  requests : Nat
  /-- the action under way has asked for an update; its requests are taken together as one (R156) -/
  asked : Bool
  deriving DecidableEq, Repr

/-! ### Notice unit -/

/-- The drop reasons of COMMAND_DROPPED (R164). -/
inductive DropReason where
  | malformed
  | queueFull
  deriving DecidableEq, Repr

/-- A notice's kind and payload (R164). -/
inductive NoticeBody where
  | commandDone (tag : BitVec 16) (opcode : Byte) (result : Result)
  /-- tag and opcode are present for QUEUE_FULL only (R147, R148) -/
  | commandDropped (reason : DropReason) (stream : BitVec 6) (line : Nat) (tagOpcode : Option (BitVec 16 × Byte))
  | foreignCommand (stream : BitVec 6) (line : Nat)
  | epochCommitted (epoch : EpochNo) (marker : Seq) (recordCount : Nat) (origin : MarkOrigin)
  | epochBroken (cause : BrokenCause) (epoch : EpochNo)
  | epochRolledBack (target : EpochNo) (newEpoch : EpochNo) (applied : Nat)
  | restoreFault (reason : RestoreReason) (sequence : Seq) (target : EpochNo) (applied : Nat)
  /-- the trigger's stream and tag, or absent (R57, R62) -/
  | captureFault (granule : Granule) (sequence : Seq) (epoch : EpochNo) (trigger : Option Ident)
  | holdExpired (cause : HoldCause) (kind : ReqKind) (id : Ident) (addr : Addr) (window : Fin 16)
  | journalLow (free lwm : Nat) (head frontier release : Seq)
  | guardHit (window : Fin 16) (id : Ident) (addr : Addr) (length : Nat)
  | noticeOverrun (lost : Nat)
  deriving DecidableEq, Repr

/-- A notice in the on-chip buffer (R163); its lap is filled in when it is written to the ring. -/
structure Notice where
  body : NoticeBody
  sequence : BitVec 32
  time : BitVec 32
  epoch : EpochNo
  deriving DecidableEq, Repr

/-- The flush timer (R175); `running 0` has run out, and its expiry is not yet taken. -/
inductive FlushTimer where
  | stopped
  | running (remaining : Nat)
  | expired
  deriving DecidableEq, Repr

/-- What the notice unit owns (09_notices_and_the_attention_line.md, the table before R163). -/
structure NoticeUnit where
  /-- oldest first -/
  buffer : List Notice
  nextSeq : BitVec 32
  configured : Bool
  base : Addr
  /-- M; 0 while no ring is configured -/
  size : Nat
  writePos : Seq
  ackPos : Seq
  /-- the position of the ring write under way, which carries the oldest notice of the buffer -/
  inFlight : Option Seq
  pathStopped : Bool
  threshold : Nat
  /-- tFLUSH, in µs; 0 is off -/
  tFlush : Nat
  /-- the urgent kinds: bit k is the kind of code k (R194) -/
  urgent : BitVec 16
  lastUrgent : Option Seq
  flush : FlushTimer
  overrunCount : Nat
  overrunTotal : Nat
  attn : Bool
  deriving DecidableEq, Repr

/-! ### The part -/

/-- The part's whole state, and the queue of commands waiting. -/
structure State where
  mgmt : Mgmt
  windows : Vector Window 16
  epoch : EpochController
  journal : Journal
  capture : Capture
  hold : Hold
  restore : Restore
  ulink : ULink
  dlink : DLink
  cmd : CommandUnit
  status : StatusWriter
  notice : NoticeUnit
  /-- RESET is asserted (R190) -/
  resetAsserted : Bool
  /-- the commands waiting, first in, first out -/
  pending : List Instr
  /-- the events waiting on the pins of the management port, first in, first out -/
  serial : List SerialEvent
  deriving DecidableEq, Repr

/-! ### Reset values -/

/-- R190. -/
def Mgmt.reset : Mgmt := ⟨.offline, false, 0, 0, ⟨false, false, false⟩, none, 0, []⟩

/-- R25. -/
def windowsReset : Vector Window 16 := Vector.replicate 16 Window.cleared

/-- R21. -/
def EpochController.reset : EpochController := ⟨.absent, 0, [], 0, 0, none, [], .stopped, 0, [], [], 0⟩

/-- R83. -/
def Journal.reset : Journal := ⟨0, 0, 0, 0, 0, [], 0, true⟩

/-- R64. -/
def Capture.reset : Capture := ⟨[], Vector.replicate 8 none⟩

/-- R101. -/
def Hold.reset : Hold := ⟨[], Config.holdReset, 0⟩

/-- R125. -/
def Restore.reset : Restore := ⟨.idle, 0, 0, Vector.replicate 5 none, 0, false, 0, false, false, none⟩

/-- R142. -/
def ULink.reset : ULink := ⟨[], []⟩

/-- R142. -/
def DLink.reset : DLink := ⟨[], [], [], [], .report, [], []⟩

/-- R155. -/
def CommandUnit.reset : CommandUnit := ⟨[], 0, none⟩

/-- R161. -/
def StatusWriter.reset : StatusWriter := ⟨0, none, false, 0, false⟩

/-- R177. -/
def NoticeUnit.reset : NoticeUnit :=
  ⟨[], 0, false, 0, 0, 0, 0, none, false, 1, Config.flushReset, 0, none, .stopped, 0, 0, false⟩

/-- The part right after power-on reset, RESET deasserted (R190): OFFLINE, with an empty queue. -/
def State.reset : State where
  mgmt := Mgmt.reset
  windows := windowsReset
  epoch := EpochController.reset
  journal := Journal.reset
  capture := Capture.reset
  hold := Hold.reset
  restore := Restore.reset
  ulink := ULink.reset
  dlink := DLink.reset
  cmd := CommandUnit.reset
  status := StatusWriter.reset
  notice := NoticeUnit.reset
  resetAsserted := false
  pending := []
  serial := []

end Sys2Proof.Machine
end

