-- ==== Sys2Proof/Machine/Formats.lean ====
section
/-! DEFINITION. Codes, byte layouts and check values (04_the_journal_ring.md R79, R80; 11_record_formats_and_worked_sequences.md):
what the part writes into memory, field by field. -/

namespace Sys2Proof.Machine

/-! ### Bytes, little-endian (R193) -/

/-- The `n` bytes of a value, least significant first. -/
def leBytes : Nat → Nat → List Byte
  | 0, _ => []
  | n + 1, v => BitVec.ofNat 8 v :: leBytes n (v / 256)

/-- The value of bytes stored least significant first. -/
def leValue : List Byte → Nat
  | [] => 0
  | b :: bs => b.toNat + 256 * leValue bs

/-- `n` bytes of zero. -/
def zeroBytes (n : Nat) : List Byte := List.replicate n 0

/-- A line that holds these bytes from its first byte on, and zeros after them. -/
def lineOfBytes (bs : List Byte) : Line :=
  ⟨⟨(List.range 64).map (fun i => bs.getD i 0)⟩, by simp⟩

/-- A line of zeros. -/
def zeroLine : Line := Vector.replicate 64 0

/-- The `n` bytes of a line from an offset. -/
def bytesAt (l : Line) (offset n : Nat) : List Byte := (l.toList.drop offset).take n

/-- The little-endian field of `n` bytes of a line at an offset. -/
def fieldAt (l : Line) (offset n : Nat) : Nat := leValue (bytesAt l offset n)

/-! ### The journal CRC (R79) -/

/-- One bit: the register shifts towards its least significant end, and the reversed polynomial is added if a 1 is shifted out. -/
def crcBit (r : BitVec 32) : BitVec 32 :=
  if r.getLsbD 0 then (r >>> 1) ^^^ 0xEDB88320#32 else r >>> 1

/-- One byte, least significant bit first. -/
def crcByte (r : BitVec 32) (b : Byte) : BitVec 32 :=
  crcBit (crcBit (crcBit (crcBit (crcBit (crcBit (crcBit (crcBit (r ^^^ b.setWidth 32))))))))

/-- The journal CRC of a sequence of bytes. -/
def journalCrc (bs : List Byte) : BitVec 32 := ~~~ (bs.foldl crcByte 0xFFFFFFFF#32)

/-! ### Codes (R193) -/

def DeviceState.code : DeviceState → Nat
  | .offline => 0
  | .listening => 1
  | .running => 2

def BrokenCause.code : BrokenCause → Nat
  | .exhausted => 1
  | .journalFault => 2
  | .restoreFault => 3
  | .aborted => 4

def Engine.code : Engine → Nat
  | .absent => 0
  | .capturing => 1
  | .draining => 2
  | .restoring => 3
  | .broken _ => 4

/-- The code of the broken cause, which is none in every state other than BROKEN (R2). -/
def Engine.causeCode : Engine → Nat
  | .broken c => c.code
  | .absent | .capturing | .draining | .restoring => 0

def MarkOrigin.code : MarkOrigin → Nat
  | .command => 1
  | .quiet => 2

def HoldCause.code : HoldCause → Nat
  | .order => 1
  | .slotWait => 2
  | .journalFull => 3
  | .fence => 4

def RestoreReason.code : RestoreReason → Nat
  | .header => 1
  | .sequence => 2
  | .epoch => 3
  | .image => 4
  | .readError => 5
  | .writeError => 6

def DropReason.code : DropReason → Nat
  | .malformed => 1
  | .queueFull => 2

def reqKindCode : ReqKind → Nat
  | .read => 0
  | .write => 1

def Result.code : Result → Nat
  | .done => 0
  | .started => 1
  | .badOpcode => 2
  | .badArgument => 3
  | .state => 4
  | .busy => 5
  | .overlap => 6
  | .epochActive => 7
  | .indexFull => 8
  | .journalFull => 9
  | .notRecoverable => 10
  | .noJournal => 11
  | .unknownEpoch => 12

def NoticeBody.code : NoticeBody → Nat
  | .commandDone .. => 1
  | .commandDropped .. => 2
  | .foreignCommand .. => 3
  | .epochCommitted .. => 4
  | .epochBroken .. => 5
  | .epochRolledBack .. => 6
  | .restoreFault .. => 7
  | .captureFault .. => 8
  | .holdExpired .. => 9
  | .journalLow .. => 10
  | .guardHit .. => 11
  | .noticeOverrun .. => 12

/-- The opcodes (R193). -/
inductive Opcode where
  | windowSet
  | journalSet
  | journalClear
  | journalRelease
  | epochCommit
  | epochRollback
  | rollbackAbort
  | epochResume
  | noticeSet
  | noticeAck
  | timingSet
  | statusSnapshot
  deriving DecidableEq, Repr

def Opcode.code : Opcode → Byte
  | .windowSet => 1
  | .journalSet => 2
  | .journalClear => 3
  | .journalRelease => 4
  | .epochCommit => 5
  | .epochRollback => 6
  | .rollbackAbort => 7
  | .epochResume => 8
  | .noticeSet => 9
  | .noticeAck => 10
  | .timingSet => 11
  | .statusSnapshot => 12

/-- An opcode byte with a code in the table; 0 has none (R193). -/
def opcodeKnown (b : Byte) : Bool := decide (1 ≤ b.toNat ∧ b.toNat ≤ 12)

/-! ### Journal records (R195) -/

/-- The first byte of a granule. -/
def granuleAddr (g : Granule) : Addr := g ++ 0#8

/-- A header line from its bytes 0 to 59: the header check, their journal CRC, is at bytes 60 to 63 (R80, R195). -/
def sealHeader (bs : List Byte) : Line :=
  lineOfBytes (bs ++ leBytes 4 (journalCrc bs).toNat)

/-- The header of a PRE_IMAGE record, with the image CRC given (R53, R77). -/
def preImageHeader (s : CaptureSlot) (imageCrc : BitVec 32) : Line :=
  sealHeader
    ([1, if s.spilled then 1 else 0, BitVec.ofNat 8 s.window.val, s.stream.setWidth 8]
      ++ leBytes 4 s.sequence.toNat ++ leBytes 4 s.epoch.toNat ++ leBytes 4 imageCrc.toNat
      ++ leBytes 8 (granuleAddr s.granule).toNat ++ zeroBytes 36)

/-- The header of a VOID record, cause CAPTURE_READ_FAULT (R58, R77). -/
def voidHeader (s : CaptureSlot) : Line :=
  sealHeader
    ([3, if s.spilled then 1 else 0, BitVec.ofNat 8 s.window.val, s.stream.setWidth 8]
      ++ leBytes 4 s.sequence.toNat ++ leBytes 4 s.epoch.toNat ++ zeroBytes 4
      ++ leBytes 8 (granuleAddr s.granule).toNat ++ zeroBytes 8 ++ [1] ++ zeroBytes 27)

/-- The header of an EPOCH_MARK record (R9, R77). -/
def markHeader (sequence : Seq) (epoch : EpochNo) (recordCount spillCount : Nat) (origin : MarkOrigin) : Line :=
  sealHeader
    ([2] ++ zeroBytes 3 ++ leBytes 4 sequence.toNat ++ leBytes 4 epoch.toNat ++ zeroBytes 12
      ++ leBytes 4 recordCount ++ leBytes 4 spillCount ++ [BitVec.ofNat 8 origin.code] ++ zeroBytes 27)

/-- The image lines of a slot; a line not read stands as zeros, but every line is read when the record is built (R53). -/
def CaptureSlot.imageLines (s : CaptureSlot) : List Line := s.image.toList.map (fun l => l.getD zeroLine)

/-- The image CRC over image lines in granule line order (R80). -/
def imageCrc (lines : List Line) : BitVec 32 := journalCrc (lines.flatMap (fun l => l.toList))

/-- The kind field of a header line (R195). -/
def headerKind (h : Line) : Nat := fieldAt h 0 1

/-- The sequence field of a header line. -/
def headerSequence (h : Line) : Seq := BitVec.ofNat 32 (fieldAt h 4 4)

/-- The epoch field of a header line. -/
def headerEpoch (h : Line) : EpochNo := BitVec.ofNat 32 (fieldAt h 8 4)

/-- The image CRC field of a header line. -/
def headerImageCrc (h : Line) : BitVec 32 := BitVec.ofNat 32 (fieldAt h 12 4)

/-- The granule address field of a header line; bits above bit 47 are not examined (R195). -/
def headerGranuleAddr (h : Line) : Addr := BitVec.ofNat 48 (fieldAt h 16 8)

/-- The header check equals the journal CRC of the line's other bytes (R80, R110). -/
def headerCheckOk (h : Line) : Bool :=
  BitVec.ofNat 32 (fieldAt h 60 4) == journalCrc (bytesAt h 0 60)

/-! ### Notices (R196) -/

/-- A notice's payload, bytes 14 to 31. -/
def NoticeBody.payload : NoticeBody → List Byte
  | .commandDone tag opcode result =>
    leBytes 2 tag.toNat ++ [opcode, BitVec.ofNat 8 result.code] ++ zeroBytes 14
  | .commandDropped reason stream line tagOpcode =>
    leBytes 2 (tagOpcode.elim 0 (fun p => p.1.toNat)) ++ [tagOpcode.elim 0 (fun p => p.2), BitVec.ofNat 8 reason.code,
      stream.setWidth 8, BitVec.ofNat 8 line] ++ zeroBytes 12
  | .foreignCommand stream line => zeroBytes 4 ++ [stream.setWidth 8, BitVec.ofNat 8 line] ++ zeroBytes 12
  | .epochCommitted epoch marker recordCount origin =>
    [BitVec.ofNat 8 origin.code, 0] ++ leBytes 4 epoch.toNat ++ leBytes 4 marker.toNat ++ leBytes 4 recordCount ++ zeroBytes 4
  | .epochBroken cause epoch => [BitVec.ofNat 8 cause.code, 0] ++ leBytes 4 epoch.toNat ++ zeroBytes 12
  | .epochRolledBack target newEpoch applied =>
    zeroBytes 2 ++ leBytes 4 target.toNat ++ leBytes 4 newEpoch.toNat ++ leBytes 4 applied ++ zeroBytes 4
  | .restoreFault reason sequence target applied =>
    [BitVec.ofNat 8 reason.code, 0] ++ leBytes 4 sequence.toNat ++ leBytes 4 target.toNat ++ leBytes 4 applied ++ zeroBytes 4
  | .captureFault granule sequence epoch trigger =>
    [trigger.elim 0 (fun i => i.stream.setWidth 8), trigger.elim 0 (fun i => i.tag)] ++ leBytes 4 sequence.toNat
      ++ leBytes 4 epoch.toNat ++ leBytes 6 (granuleAddr granule).toNat ++ zeroBytes 2
  | .holdExpired cause kind id addr window =>
    [BitVec.ofNat 8 cause.code, BitVec.ofNat 8 (reqKindCode kind), id.stream.setWidth 8, id.tag, BitVec.ofNat 8 window.val, 0]
      ++ leBytes 6 addr.toNat ++ zeroBytes 6
  | .journalLow free lwm head frontier release =>
    leBytes 3 free ++ leBytes 3 lwm ++ leBytes 4 head.toNat ++ leBytes 4 frontier.toNat ++ leBytes 4 release.toNat
  | .guardHit window id addr length =>
    [BitVec.ofNat 8 window.val, id.stream.setWidth 8, id.tag, BitVec.ofNat 8 length, 0, 0]
      ++ leBytes 6 addr.toNat ++ zeroBytes 6
  | .noticeOverrun lost => zeroBytes 2 ++ leBytes 4 lost ++ zeroBytes 12

/-- Bit 1 of byte 1: the identity a CAPTURE_FAULT or a COMMAND_DROPPED carries is present. -/
def NoticeBody.identityPresent : NoticeBody → Bool
  | .captureFault _ _ _ trigger => trigger.isSome
  | .commandDropped _ _ _ tagOpcode => tagOpcode.isSome
  | .commandDone .. | .foreignCommand .. | .epochCommitted .. | .epochBroken .. | .epochRolledBack .. | .restoreFault ..
  | .holdExpired .. | .journalLow .. | .guardHit .. | .noticeOverrun .. => false

/-- The 32 bytes of a notice with its lap. -/
def Notice.bytes (n : Notice) (lap : Nat) : List Byte :=
  [BitVec.ofNat 8 n.body.code, BitVec.ofNat 8 (lap + if n.body.identityPresent then 2 else 0)]
    ++ leBytes 4 n.sequence.toNat ++ leBytes 4 n.time.toNat ++ leBytes 4 n.epoch.toNat ++ n.body.payload

/-! ### Status block (R197) -/

/-- The fault summary: bit 0 NOTICE_PATH, bit 1 STATUS_PATH, bit 2 MGMT_REFUSED. -/
def FaultBits.code (f : FaultBits) : Nat :=
  (if f.noticePath then 1 else 0) + (if f.statusPath then 2 else 0) + (if f.mgmtRefused then 4 else 0)

/-- The number of busy capture slots. -/
def Capture.busyCount (c : Capture) : Nat := (c.slots.toList.filter (fun o => o.isSome)).length

/-- The four lines of a status block with this sequence, from the state of each block as it stands (R157, R197). While no command has
been taken the last tag, opcode and result bytes are 0: of these three R193 gives only the opcode, and the other two are the model's
choice (log 31). -/
def statusBlock (s : State) (sequence : BitVec 32) : Vector Line 4 :=
  ⟨⟨[lineOfBytes
        (leBytes 4 sequence.toNat
          ++ [BitVec.ofNat 8 s.mgmt.device.code, BitVec.ofNat 8 s.epoch.engine.code, BitVec.ofNat 8 s.epoch.engine.causeCode,
            BitVec.ofNat 8 s.mgmt.fault.code]
          ++ leBytes 4 s.epoch.current.toNat
          ++ [BitVec.ofNat 8 s.epoch.index.length, BitVec.ofNat 8 s.capture.busyCount, BitVec.ofNat 8 s.hold.entries.length, 0]
          ++ leBytes 4 (s.epoch.index.head?.elim 0 (fun e => e.number.toNat))
          ++ leBytes 4 (s.epoch.target.elim 0 (fun t => t.toNat))
          ++ leBytes 4 s.epoch.captureCount ++ leBytes 4 s.epoch.spillCount),
      lineOfBytes
        (leBytes 4 s.journal.head.toNat ++ leBytes 4 s.journal.frontier.toNat ++ leBytes 4 s.journal.release.toNat
          ++ leBytes 4 s.journal.slots ++ leBytes 4 s.restore.cursor.toNat),
      lineOfBytes
        (leBytes 4 s.notice.writePos.toNat ++ leBytes 4 s.notice.ackPos.toNat ++ leBytes 4 s.notice.overrunTotal
          ++ leBytes 4 s.cmd.taken.toNat
          ++ leBytes 2 (s.cmd.last.elim 0 (fun c => c.tag.toNat))
          ++ [s.cmd.last.elim 0 (fun c => c.opcode), s.cmd.last.elim 0 (fun c => BitVec.ofNat 8 c.result.code)]),
      lineOfBytes (zeroBytes 60 ++ leBytes 4 sequence.toNat)]⟩, rfl⟩

/-! ### Management readout (R181, R185, R198) -/

/-- The value a read frame of a register captures. -/
def State.mgmtRead (s : State) (reg : BitVec 4) : BitVec 32 :=
  match reg.toNat with
  | 0 => Config.identValue
  | 1 => if s.mgmt.cwEnable then 1 else 0
  | 2 => s.mgmt.cwBase.setWidth 32
  | 3 => BitVec.setWidth 32 (s.mgmt.cwBase.extractLsb' 32 16)
  | 4 => s.mgmt.cmdStreams.extractLsb' 0 32
  | 5 => s.mgmt.cmdStreams.extractLsb' 32 32
  | 6 => BitVec.ofNat 32 (s.mgmt.device.code + 256 * s.epoch.engine.code + 65536 * s.epoch.engine.causeCode)
  | 7 => s.epoch.current
  | 8 => BitVec.ofNat 32 s.mgmt.fault.code
  | _ => 0

end Sys2Proof.Machine
end

