-- ==== Sys2Proof/Machine/Operands.lean ====
section
/-! DEFINITION. What the operands of requests and commands stand for: the bytes a request touches, the areas of memory and their
overlap (R26, R31), journal and notice geometry (R65, R168), and the arguments of a command line (R194). -/

namespace Sys2Proof.Machine

/-! ### Requests -/

/-- The granule holding an address. -/
def granuleOf (a : Addr) : Granule := a.extractLsb' 8 40

/-- The offset of an address within its line. -/
def lineOffset (a : Addr) : Nat := a.toNat % 64

/-- The form check of the U-link port (R127): 1 to 64 bytes, all in one line. -/
def formOk (r : Request) : Bool := decide (1 ≤ r.length ∧ r.length ≤ 64 ∧ lineOffset r.addr + r.length ≤ 64)

/-- A write of a whole line with every byte enabled (R145 step 2). -/
def wholeLine (r : Request) : Bool := r.length == 64 && r.mask.all (fun b => b)

/-- The `k`-th line of a granule. -/
def granuleLine (g : Granule) (k : Nat) : Addr := granuleAddr g + BitVec.ofNat 48 (64 * k)

/-! ### Areas of memory (R26) -/

/-- A run of addresses, both ends inclusive. -/
structure Area where
  first : Nat
  last : Nat
  deriving DecidableEq, Repr

def Area.holds (a : Area) (x : Nat) : Bool := decide (a.first ≤ x ∧ x ≤ a.last)

/-- Two areas share an address. -/
def Area.meets (a b : Area) : Bool := decide (a.first ≤ b.last ∧ b.first ≤ a.last)

/-- The range of a window, while its mode is not OFF. -/
def Window.area? (w : Window) : Option Area :=
  match w.mode with
  | .off => none
  | .journal | .guard => some ⟨w.base.toNat, w.limit.toNat⟩

/-- The journal area: N slots of 320 bytes from the base (R65). -/
def journalArea (base slots : Nat) : Area := ⟨base, base + slots * 320 - 1⟩

/-- The notice area: M entries of 32 bytes from the base (R168). -/
def noticeArea (base size : Nat) : Area := ⟨base, base + size * 32 - 1⟩

/-- The command window, while the device is LISTENING or RUNNING. -/
def State.commandArea? (s : State) : Option Area :=
  match s.mgmt.device with
  | .offline => none
  | .listening | .running => some ⟨s.mgmt.cwBase.toNat, s.mgmt.cwBase.toNat + 4095⟩

/-- The journal area, while the device is RUNNING. -/
def State.journalArea? (s : State) : Option Area :=
  match s.mgmt.device with
  | .offline | .listening => none
  | .running => some (journalArea s.journal.base.toNat s.journal.slots)

/-- The notice area, while a notice ring is configured. -/
def State.noticeArea? (s : State) : Option Area :=
  if s.notice.configured then some (noticeArea s.notice.base.toNat s.notice.size) else none

/-- An area meets another that exists. -/
def meetsOpt (a : Area) (b : Option Area) : Bool := b.any (fun x => a.meets x)

/-- An area meets a non-OFF window, other than the one numbered `except` if one is given (R31). -/
def meetsWindow (ws : Vector Window 16) (except : Option Nat) (a : Area) : Bool :=
  ((List.range 16).zip ws.toList).any (fun p => some p.1 != except && meetsOpt a p.2.area?)

/-! ### The journal ring (R65, R68, R69) -/

/-- The distance of a sequence from release. -/
def Journal.dist (j : Journal) (q : Seq) : Nat := (q - j.release).toNat

/-- One sequence is below another, measured from release. -/
def Journal.below (j : Journal) (p q : Seq) : Bool := decide (j.dist p < j.dist q)

/-- The free slot count. -/
def Journal.free (j : Journal) : Nat := j.slots - j.dist j.head

/-- The first byte of the slot of a sequence. -/
def Journal.slotAddr (j : Journal) (q : Seq) : Addr := j.base + BitVec.ofNat 48 (q.toNat % j.slots * 320)

/-- The `k`-th line of the slot of a sequence: line 0 is the header, lines 1 to 4 the image. -/
def Journal.slotLine (j : Journal) (q : Seq) (k : Nat) : Addr := j.slotAddr q + BitVec.ofNat 48 (64 * k)

/-- A count of slots a journal may have: a power of two from 256 to 1,048,576 (R65). -/
def journalSizeOk (n : Nat) : Bool :=
  [256, 512, 1024, 2048, 4096, 8192, 16384, 32768, 65536, 131072, 262144, 524288, 1048576].contains n

/-! ### The notice ring (R168) -/

/-- The unacknowledged count. -/
def NoticeUnit.unacked (n : NoticeUnit) : Nat := (n.writePos - n.ackPos).toNat

/-- The entry of a ring position. -/
def NoticeUnit.entryAddr (n : NoticeUnit) (p : Seq) : Addr := n.base + BitVec.ofNat 48 (p.toNat % n.size * 32)

/-- The lap of a ring position. -/
def NoticeUnit.lap (n : NoticeUnit) (p : Seq) : Nat := p.toNat / n.size % 2

/-- A size a notice ring may have: a power of two from 16 to 65,536. -/
def ringSizeOk (m : Nat) : Bool :=
  [16, 32, 64, 128, 256, 512, 1024, 2048, 4096, 8192, 16384, 32768, 65536].contains m

/-! ### Epochs -/

/-- The epoch number an argument names: 0 means the current epoch (R15, R103). -/
def EpochController.resolve (e : EpochController) (n : EpochNo) : EpochNo := if n = 0 then e.current else n

/-- The index entry of an epoch. -/
def EpochController.entry? (e : EpochController) (n : EpochNo) : Option IndexEntry := e.index.find? (fun x => x.number == n)

/-- The entries older than an epoch: those before it in the index (R5). -/
def olderThan (index : List IndexEntry) (n : EpochNo) : List IndexEntry := index.takeWhile (fun x => x.number != n)

/-- Steps a candidate number on while it is 0 or taken; the fuel covers 0 and the at most 16 entries of the index (R5). -/
def stepNumber (taken : List EpochNo) : Nat → EpochNo → EpochNo
  | 0, n => n
  | fuel + 1, n => if n = 0 ∨ n ∈ taken then stepNumber taken fuel (n + 1) else n

/-- The number of a new epoch (R5). -/
def nextNumber (current : EpochNo) (taken : List EpochNo) : EpochNo := stepNumber taken (taken.length + 2) (current + 1)

/-- The index entry that holds a sequence (R110). -/
def entryHolding (j : Journal) (index : List IndexEntry) (q : Seq) : Option IndexEntry :=
  index.find? (fun e => decide (j.dist e.first ≤ j.dist q) && e.marker.all (fun m => decide (j.dist q ≤ j.dist m)))

/-! ### Arguments of a command line (R194) -/

/-- The format marker field holds the format marker value. -/
def markerOk (l : Line) : Bool := fieldAt l 0 2 == Config.formatMarker

/-- The opcode byte. -/
def lineOpcode (l : Line) : Byte := l[2]

/-- The software tag. -/
def lineTag (l : Line) : BitVec 16 := BitVec.ofNat 16 (fieldAt l 4 2)

/-- The arguments of WINDOW_SET. -/
structure WindowArgs where
  index : Nat
  mode : Nat
  base : Nat
  limit : Nat
  quietReload : Nat
  guardReport : Nat
  deriving DecidableEq, Repr

def windowArgs (l : Line) : WindowArgs :=
  ⟨fieldAt l 8 1, fieldAt l 9 1, fieldAt l 16 8, fieldAt l 24 8, fieldAt l 10 1, fieldAt l 11 1⟩

/-- The arguments of WINDOW_SET are well formed (R27, R194). -/
def WindowArgs.ok (a : WindowArgs) : Bool :=
  decide (a.index ≤ 15) &&
  match a.mode with
  | 0 => true
  | 1 | 2 =>
    decide (a.quietReload ≤ 1 ∧ a.guardReport ≤ 1 ∧ a.base ≤ Config.lastAddress ∧ a.limit ≤ Config.lastAddress ∧
      a.base % 4096 = 0 ∧ a.limit % 4096 = 4095 ∧ a.base ≤ a.limit)
  | _ => false

/-- The requested range, when the mode asked for is JOURNAL or GUARD. -/
def WindowArgs.area? (a : WindowArgs) : Option Area := if a.mode = 0 then none else some ⟨a.base, a.limit⟩

/-- The contents an accepted WINDOW_SET gives the window (R27). -/
def WindowArgs.contents (a : WindowArgs) : Window :=
  match a.mode with
  | 1 => ⟨.journal, BitVec.ofNat 48 a.base, BitVec.ofNat 48 a.limit, a.quietReload == 1, false⟩
  | 2 => ⟨.guard, BitVec.ofNat 48 a.base, BitVec.ofNat 48 a.limit, false, a.guardReport == 1⟩
  | _ => Window.cleared

/-- JOURNAL_SET's base. -/
def journalBaseArg (l : Line) : Nat := fieldAt l 16 8

/-- JOURNAL_SET's slot count. -/
def journalSizeArg (l : Line) : Nat := fieldAt l 8 4

/-- The epoch argument of JOURNAL_RELEASE and EPOCH_ROLLBACK. -/
def epochArg (l : Line) : EpochNo := BitVec.ofNat 32 (fieldAt l 8 4)

/-- NOTICE_ACK's position. -/
def positionArg (l : Line) : Seq := BitVec.ofNat 32 (fieldAt l 8 4)

/-- The arguments of NOTICE_SET. -/
structure RingArgs where
  base : Nat
  size : Nat
  threshold : Nat
  tFlush : Nat
  urgent : Nat
  deriving DecidableEq, Repr

def ringArgs (l : Line) : RingArgs := ⟨fieldAt l 16 8, fieldAt l 8 4, fieldAt l 12 4, fieldAt l 24 4, fieldAt l 28 2⟩

/-- The argument checks of NOTICE_SET (R171, R194): the urgent mask has no bit but 1 to 12. -/
def RingArgs.ok (a : RingArgs) : Bool :=
  decide (a.base % 32 = 0) && ringSizeOk a.size && decide (a.base + a.size * 32 - 1 ≤ Config.lastAddress) &&
  decide (1 ≤ a.threshold ∧ a.threshold ≤ 255) && decide (a.tFlush ≤ 65535) && decide (a.urgent % 2 = 0 ∧ a.urgent < 8192)

/-- The arguments of TIMING_SET. -/
structure TimingArgs where
  tHold : Nat
  tQuiet : Nat
  lwm : Nat
  deriving DecidableEq, Repr

def timingArgs (l : Line) : TimingArgs := ⟨fieldAt l 8 4, fieldAt l 12 4, fieldAt l 16 4⟩

/-! ### Capture slots -/

/-- The slot numbers, in order. -/
def allSlots : List (Fin 8) := [0, 1, 2, 3, 4, 5, 6, 7]

/-- The lines of a granule, in order. -/
def granuleLines : List (Fin 4) := [0, 1, 2, 3]

/-- The parts of a record, header first. -/
def recordParts : List (Fin 5) := [0, 1, 2, 3, 4]

/-- A slot's contents, if it is busy. -/
def Capture.slot? (c : Capture) (i : Fin 8) : Option CaptureSlot := c.slots[i]

/-- A busy slot's contents, if its phase and record kind are these: an answer is taken by a slot in the phase that awaits it. -/
def Capture.slotIn (c : Capture) (i : Fin 8) (p : Phase) (k : SlotKind) : Option CaptureSlot :=
  (c.slot? i).filter (fun x => x.phase == p && x.kind == k)

/-- A busy slot holds a granule. -/
def Capture.holdsGranule (c : Capture) (g : Granule) : Bool :=
  c.slots.toList.any (fun o => o.any (fun s => s.granule == g))

/-- The free slot of lowest number; slots are interchangeable (R55). -/
def Capture.freeSlot? (c : Capture) : Option (Fin 8) := allSlots.find? (fun i => (c.slot? i).isNone)

/-- No capture slot is busy. -/
def Capture.noneBusy (c : Capture) : Bool := c.slots.toList.all (fun o => o.isNone)

/-- The granule of a held request (R85). -/
def HeldEntry.granule (e : HeldEntry) : Granule := granuleOf e.request.addr

/-- The hold queue holds a request for a granule. -/
def Hold.holdsGranule (h : Hold) (g : Granule) : Bool := h.entries.any (fun e => e.granule == g)

end Sys2Proof.Machine
end

