-- ==== Sys2Proof/Machine/Flags.lean ====
section
/-! DEFINITION. The conditions the part derives from its state: the fence (R2), the epoch condition (R29), the ATTN condition
(R174), the D-link waits (R133, R136), ages (R92), and the comparisons of record checks (R110). -/

namespace Sys2Proof.Machine

/-- The engine is BROKEN. -/
def Engine.isBroken : Engine → Bool
  | .broken _ => true
  | .absent | .capturing | .draining | .restoring => false

/-- BROKEN with cause RESTORE_FAULT or ABORTED: memory is partly restored, and the rollback target is kept (R4). -/
def Engine.brokenRetryable : Engine → Bool
  | .broken .restoreFault | .broken .aborted => true
  | .broken .exhausted | .broken .journalFault | .absent | .capturing | .draining | .restoring => false

/-- BROKEN with cause EXHAUSTED or JOURNAL_FAULT: no rollback is possible (R4). -/
def Engine.brokenLost : Engine → Bool
  | .broken .exhausted | .broken .journalFault => true
  | .broken .restoreFault | .broken .aborted | .absent | .capturing | .draining | .restoring => false

/-- The fence is up (R2). -/
def Engine.fenceUp : Engine → Bool
  | .draining | .restoring | .broken .restoreFault | .broken .aborted => true
  | .absent | .capturing | .broken .exhausted | .broken .journalFault => false

/-- The epoch condition of WINDOW_SET (R29). -/
def State.epochCondition (s : State) : Bool := s.epoch.engine == .capturing && s.epoch.captureCount == 0

/-- A capture slot's granule or a held request lies in a range (R30). -/
def State.workIn (s : State) (a : Area) : Bool :=
  s.capture.slots.toList.any (fun o => o.any (fun c => a.holds (granuleAddr c.granule).toNat)) ||
  s.hold.entries.any (fun e => a.holds e.request.addr.toNat)

/-- No slot is busy and no marker write is unanswered (R17, R19). -/
def State.journalQuiet (s : State) : Bool := s.capture.noneBusy && s.epoch.markers.isEmpty

/-- The last urgent position is unacknowledged (R174). -/
def NoticeUnit.urgentUnread (n : NoticeUnit) : Bool :=
  n.lastUrgent.any (fun p => decide ((p - n.ackPos).toNat < n.unacked))

/-- The condition under which ATTN is asserted (R174). -/
def NoticeUnit.attnCondition (n : NoticeUnit) : Bool :=
  n.pathStopped ||
  (decide (0 < n.unacked) && (decide (n.threshold ≤ n.unacked) || n.flush == .expired || n.urgentUnread))

/-- The conditions of a ring write, but for the buffer holding a notice (R169). -/
def NoticeUnit.ringReady (n : NoticeUnit) : Bool :=
  n.configured && !n.pathStopped && n.inFlight.isNone && decide (n.unacked < n.size)

/-- A notice kind is among the urgent kinds (R171, R194). -/
def NoticeUnit.isUrgent (n : NoticeUnit) (b : NoticeBody) : Bool := n.urgent.getLsbD b.code

/-- A request was forwarded by the capture unit: a trigger, or one marked so (R136). -/
def Origin.byCaptureUnit : Origin → Bool
  | .forwarded _ _ _ byCapture => byCapture
  | .trigger _ => true
  | .oldRead _ _ | .record _ | .void _ | .marker _ | .restoreRead _ | .writeBack | .notice | .status | .abandoned => false

/-- The FORWARD class holds a request to a granule that the capture unit forwarded: the one wait of a capture's reads and of
write-backs (R133, R136, R111). R52 names only writes for the reads; waiting for reads as well is the model's choice (log 29). -/
def DLink.requestWaiting (d : DLink) (g : Granule) : Bool :=
  d.forward.any (fun q => q.origin.byCaptureUnit && granuleOf q.addr == g)

/-- A D-link identity is free (R132). -/
def DLink.isFree (d : DLink) (i : Ident) : Bool := d.inUse.all (fun u => u.id != i)

/-- The age of a held entry, modulo 2^32 (R92). -/
def State.age (s : State) (e : HeldEntry) : Nat := (s.mgmt.time - e.arrival).toNat

/-- An entry's age is at or past tHOLD. -/
def State.overdue (s : State) (e : HeldEntry) : Bool := decide (s.hold.tHold ≤ s.age e)

/-- An entry's expiry is due and has not been taken: the expiry of a JOURNAL_FULL entry is taken once (R92, R93). -/
def State.expiryDue (s : State) (e : HeldEntry) : Bool :=
  s.overdue e && !(e.cause == .journalFull && e.exhausted)

/-- A stream is in CMD_STREAMS (R184). -/
def State.streamPermitted (s : State) (stream : BitVec 6) : Bool := s.mgmt.cmdStreams.getLsbD stream.toNat

/-- A count raised by one that stops at 2^32−1 (R7, R166). -/
def satSucc (n : Nat) : Nat := min (n + 1) Config.countMax

/-- Check 2 of R110: a known kind, EPOCH_MARK exactly at the marker sequences of the index. -/
def kindOk (h : Line) (index : List IndexEntry) (cursor : Seq) : Bool :=
  match headerKind h with
  | 1 | 3 => !index.any (fun e => e.marker == some cursor)
  | 2 => index.any (fun e => e.marker == some cursor)
  | _ => false

/-- The checks of the record in hand, in order: the reason of the first that fails (R110). -/
def recordFault (j : Journal) (index : List IndexEntry) (cursor : Seq) (h : Line) (image : List Line) :
    Option RestoreReason :=
  if !headerCheckOk h then some .header
  else if !kindOk h index cursor then some .header
  else if headerSequence h != cursor then some .sequence
  else if (entryHolding j index cursor).all (fun e => headerEpoch h != e.number) then some .epoch
  else if headerKind h == 1 && headerImageCrc h != imageCrc image then some .image
  else none

end Sys2Proof.Machine
end

