-- ==== Sys2Proof/Machine/Ops.lean ====
section
/-! DEFINITION. The operations the commands share: responses, D-link traffic, notices, the journal pointers, the engine state,
captures, the hold queue's judgement, the drain and the restore walk. Each is the action of the block that owns the state. -/

namespace Sys2Proof.Machine

/-! ### Actions -/

/-- The status writer is asked for an update by the action under way (R156). -/
def askStatus (s : State) : State := { s with status.asked := true }

/-- The end of an action: the requests it caused are taken together as one (R156). -/
def settle (s : State) : State :=
  if s.status.asked then { s with status.asked := false, status.requests := s.status.requests + 1 } else s

/-- One whole action of the part; while RESET is asserted none is taken (R190). -/
def act (s : State) (f : State → State) : Host.Outcome State Fault Refusal :=
  .next (if s.resetAsserted then s else settle (f s))

/-! ### The links -/

/-- The U-link port returns a response and the identity leaves the outstanding set; a response for an identity that is not in the
set is discarded (R130). -/
def respond (s : State) (kind : ReqKind) (id : Ident) (st : Status) (data : List Byte) : State :=
  if id ∈ s.ulink.outstanding then
    { s with ulink.outstanding := s.ulink.outstanding.filter (fun i => i != id),
             ulink.returned := s.ulink.returned ++ [⟨kind, id, st, data⟩] }
  else s

/-- The port answers a request it does not take into the set (R127, R128). -/
def refuseAtPort (s : State) (r : Request) : State :=
  { s with ulink.returned := s.ulink.returned ++ [⟨r.kind, r.id, .refused, []⟩] }

/-- A D-link read of one line. -/
def readLine (a : Addr) (origin : Origin) : DRequest := ⟨.read, a, 64, [], [], origin⟩

/-- A D-link write of one line, every byte enabled. -/
def writeLine (a : Addr) (l : Line) (origin : Origin) : DRequest :=
  ⟨.write, a, 64, l.toList, List.replicate 64 true, origin⟩

/-- An upstream request as it is forwarded (R134). -/
def forwardOf (r : Request) (origin : Origin) : DRequest := ⟨r.kind, r.addr, r.length, r.data, r.mask, origin⟩

/-- Requests become ready, in order, at the newest end of the FORWARD class (R136). -/
def readyForward (s : State) (qs : List DRequest) : State := { s with dlink.forward := s.dlink.forward ++ qs }

/-- Requests become ready in the CAPTURE class. -/
def readyCapture (s : State) (qs : List DRequest) : State := { s with dlink.capture := s.dlink.capture ++ qs }

/-- Requests become ready in the RESTORE class. -/
def readyRestore (s : State) (qs : List DRequest) : State := { s with dlink.restore := s.dlink.restore ++ qs }

/-- Requests become ready in the REPORT class. -/
def readyReport (s : State) (qs : List DRequest) : State := { s with dlink.report := s.dlink.report ++ qs }

/-- A request forwarded by the classifier (R35) or by the capture unit (R42 to R44). -/
def forwardRequest (s : State) (r : Request) (byCapture : Bool) : State :=
  readyForward s [forwardOf r (.forwarded r.id r.kind false byCapture)]

/-- The origin an identity in use belongs to (R132). -/
def DLink.originOf (d : DLink) (id : Ident) : Option Origin :=
  (d.inUse.find? (fun u => u.id == id)).map (fun u => u.origin)

/-- The identity returns to the pool (R132). -/
def freeIdent (s : State) (id : Ident) : State :=
  { s with dlink.inUse := s.dlink.inUse.filter (fun u => u.id != id) }

/-- A response is taken: the identity returns to the pool and the response is handed to its origin. A response whose work a soft
reset has ended is ignored (R141), and so is one whose identity is not in use (R132). An answer command names the block that takes
it; `f` answers nothing for an origin of another block, and the event then does not occur. -/
def takeAnswer (s : State) (id : Ident) (f : Origin → State → Option State) : State :=
  match s.dlink.originOf id with
  | none => s
  | some .abandoned => freeIdent s id
  | some o => (f o (freeIdent s id)).getD s

/-! ### Notices -/

/-- The ring write of a notice at a position (R169). -/
def noticeWrite (u : NoticeUnit) (n : Notice) (p : Seq) : DRequest :=
  ⟨.write, u.entryAddr p, 32, n.bytes (u.lap p), List.replicate 32 true, .notice⟩

/-- The test for a ring write, and the write of the oldest notice if it passes (R169). -/
def tryRingWrite (s : State) : State :=
  match s.notice.buffer with
  | [] => s
  | n :: _ =>
    if s.notice.ringReady then
      { readyReport s [noticeWrite s.notice n s.notice.writePos] with notice.inFlight := some s.notice.writePos }
    else s

/-- A notice is handed to the notice unit: it enters the buffer with the next sequence (R165), or is lost and counted (R166). -/
def post (s : State) (body : NoticeBody) : State :=
  if s.notice.buffer.length < Config.noticeCapacity then
    tryRingWrite
      { s with notice.buffer := s.notice.buffer ++ [⟨body, s.notice.nextSeq, s.mgmt.time, s.epoch.current⟩],
               notice.nextSeq := s.notice.nextSeq + 1 }
  else
    { s with notice.overrunCount := satSucc s.notice.overrunCount,
             notice.overrunTotal := satSucc s.notice.overrunTotal }

/-- ATTN follows its condition (R174). -/
def updateAttn (s : State) : State := { s with notice.attn := s.notice.attnCondition }

/-! ### The journal unit -/

/-- The low-water test (R81). -/
def lowWaterTest (s : State) : State :=
  if s.journal.lwm = 0 then { s with journal.armed := true }
  else if s.journal.free ≤ s.journal.lwm then
    if s.journal.armed then
      post { s with journal.armed := false }
        (.journalLow s.journal.free s.journal.lwm s.journal.head s.journal.frontier s.journal.release)
    else s
  else { s with journal.armed := true }

/-- The frontier moves up over the sequences of the completed set (R72); the fuel is the size of the set. -/
def absorb : Nat → Seq → List Seq → Seq × List Seq
  | 0, f, set => (f, set)
  | fuel + 1, f, set => if f ∈ set then absorb fuel (f + 1) (set.filter (fun q => q != f)) else (f, set)

/-! ### The engine state -/

/-- A change of engine state or broken cause is handed to the hold queue and the status writer (R2). -/
def reportChange (s : State) : State := askStatus { s with hold.passes := s.hold.passes + 1 }

/-- The engine state changes, and the change is reported. -/
def setEngine (s : State) (e : Engine) : State := reportChange { s with epoch.engine := e }

/-- An event that leads to BROKEN, taken while the engine is not BROKEN: all of R4 but the hold queue's pass. -/
def breakEngine (s : State) (cause : BrokenCause) : State :=
  let kept := if (Engine.broken cause).brokenRetryable then s.epoch.target else none
  askStatus
    (post { s with epoch.engine := .broken cause, epoch.target := kept } (.epochBroken cause s.epoch.current))

/-- The engine goes BROKEN, and the hold queue is handed the change (R4, R2). -/
def enterBroken (s : State) (cause : BrokenCause) : State :=
  let t := breakEngine s cause
  { t with hold.passes := t.hold.passes + 1 }

/-- A journal write fault is taken (R3, R4): it breaks the engine in CAPTURING and DRAINING and changes nothing otherwise. -/
def journalWriteFault (s : State) : State :=
  match s.epoch.engine with
  | .capturing | .draining => enterBroken s .journalFault
  | .absent | .restoring | .broken _ => s

/-! ### Epochs -/

/-- The epoch controller takes one allocation report (R7). -/
def countAllocation (e : EpochController) (a : AllocReport) : EpochController :=
  if a.epoch = e.current then
    { e with captureCount := satSucc e.captureCount,
             spillCount := if a.spilled then satSucc e.spillCount else e.spillCount }
  else e

/-- The reports not yet taken are taken before a new epoch opens, so that none arises for an older epoch (R7, R10). -/
def countAllocations (s : State) : State :=
  { s with epoch := { s.epoch.allocReports.foldl countAllocation s.epoch with allocReports := [] } }

/-- An entry that a frontier advance closes (R12). -/
def closes (j : Journal) (frontier : Seq) (e : IndexEntry) : Bool :=
  e.state == .closing && e.marker.any (fun m => j.below m frontier)

/-- The notice and the status update of an entry that closes (R12). -/
def reportClose (s : State) (e : IndexEntry) : State :=
  match e.marker, e.origin with
  | some m, some o => askStatus (post s (.epochCommitted e.number m e.recordCount o))
  | _, _ => s

/-- The epoch controller takes a frontier advance: CLOSING entries whose markers lie below it close, oldest first (R12). -/
def takeAdvance (s : State) (frontier : Seq) : State :=
  (s.epoch.index.filter (closes s.journal frontier)).foldl reportClose
    { s with epoch.index :=
        s.epoch.index.map (fun e => if closes s.journal frontier e then { e with state := .closed } else e) }

/-- Every frontier advance reported and not yet taken is taken, oldest first. -/
def takeAdvances (s : State) : State :=
  s.epoch.advances.foldl takeAdvance { s with epoch.advances := [] }

/-- The OPEN entry becomes CLOSING with its marker (R9). -/
def closeOpen (marker : Seq) (count : Nat) (origin : MarkOrigin) (e : IndexEntry) : IndexEntry :=
  if e.state = .opened then
    { e with marker := some marker, state := .closing, recordCount := count, origin := some origin }
  else e

/-- The five line writes of an EPOCH_MARK: the header and four lines of zeros (R11). -/
def markerWrites (j : Journal) (q : Seq) (header : Line) : List DRequest :=
  recordParts.map (fun k => writeLine (j.slotLine q k.val) (if k = 0 then header else zeroLine) (.marker q))

/-- Accepting a commit (R9). The low-water test its reservation calls for is made by the caller. -/
def commit (s : State) (origin : MarkOrigin) : State :=
  let t := countAllocations s
  let q := t.journal.head
  let index := t.epoch.index.map (closeOpen q t.epoch.captureCount origin)
  let number := nextNumber t.epoch.current (index.map (fun e => e.number))
  let header := markHeader q t.epoch.current t.epoch.captureCount t.epoch.spillCount origin
  readyCapture
    { t with
        journal.head := q + 1
        epoch.index := index ++ [⟨number, q + 1, none, .opened, 0, none⟩]
        epoch.current := number
        epoch.captureCount := 0
        epoch.spillCount := 0
        epoch.markers := t.epoch.markers ++ [⟨q, 5, false⟩]
        capture.table := [] }
    (markerWrites t.journal q header)

/-- The quiet timer started at tQUIET: it counts microseconds, and tQUIET is in milliseconds (R13). -/
def quietFull (tQuiet : Nat) : QuietTimer := .running (tQuiet * 1000)

/-- The restart of the quiet timer by a write (R13). -/
def restartQuiet (s : State) : State :=
  if s.epoch.tQuiet = 0 then s else { s with epoch.quiet := quietFull s.epoch.tQuiet }

/-! ### The restore walk -/

/-- The five reads of the record at the cursor (R109). -/
def readRecord (s : State) : State :=
  readyRestore
    { s with restore.phase := .reading, restore.awaited := 5, restore.errorSeen := false,
             restore.hand := Vector.replicate 5 none, restore.issued := false }
    (recordParts.map (fun k => readLine (s.journal.slotLine s.restore.cursor k.val) (.restoreRead k)))

/-- The first sequence of the rollback target. -/
def targetFirst (s : State) : Seq :=
  ((s.epoch.target.bind s.epoch.entry?).map (fun e => e.first)).getD s.journal.head

/-- The completion of a rollback (R114, R75). -/
def completeRollback (s : State) : State :=
  let target := s.epoch.target.getD 0
  let first := targetFirst s
  let older := olderThan s.epoch.index target
  let number := nextNumber s.epoch.current (older.map (fun e => e.number))
  let t := { countAllocations s with
    journal.head := first
    journal.frontier := first
    epoch.index := older ++ [⟨number, first, none, .opened, 0, none⟩]
    epoch.current := number
    epoch.captureCount := 0
    epoch.spillCount := 0
    epoch.target := none
    capture.table := [] }
  lowWaterTest (post (setEngine t .capturing) (.epochRolledBack target number s.restore.applied))

/-- The start of the walk. An empty range ends in the action that begins it (R108, R120). -/
def startWalk (s : State) : State :=
  let floor := targetFirst s
  let t := { s with restore.floor := floor, restore.applied := 0, restore.abortPending := false, restore.report := none }
  if s.journal.head = floor then completeRollback { t with restore.cursor := floor, restore.phase := .idle }
  else readRecord { t with restore.cursor := s.journal.head - 1 }

/-- The drain test (R106): the advances reported are taken first, so that every entry they close is reported before the engine
leaves DRAINING. -/
def drainTest (s : State) : State :=
  if s.epoch.engine = .draining ∧ s.capture.noneBusy ∧ s.journal.frontier = s.journal.head then
    startWalk (setEngine (takeAdvances s) .restoring)
  else s

/-- The restore engine reports the end of a walk, a fault or a stop to the epoch controller. -/
def reportRestore (s : State) (r : RestoreReport) : State := { s with restore.report := some r }

/-- A record is finished (R113). -/
def finishRecord (s : State) : State :=
  if s.restore.abortPending then reportRestore { s with restore.phase := .idle } .stop
  else if s.restore.cursor = s.restore.floor then reportRestore { s with restore.phase := .idle } .walkEnd
  else readRecord { s with restore.cursor := s.restore.cursor - 1 }

/-- The record in hand is checked, and written back, skipped or faulted (R110 to R112). -/
def judgeRecord (s : State) : State :=
  let header := (s.restore.hand[0]).getD zeroLine
  let image := (s.restore.hand.toList.drop 1).map (fun l => l.getD zeroLine)
  match recordFault s.journal s.epoch.index s.restore.cursor header image with
  | some reason => reportRestore s (.fault reason)
  | none =>
    if headerKind header = 1 then
      { s with restore.phase := .writingBack, restore.awaited := 4, restore.errorSeen := false, restore.issued := false }
    else finishRecord s

/-! ### Completion of records -/

/-- The journal unit takes a completion report (R71, R72); the drain test is made at each frontier advance (R106). -/
def complete (s : State) (q : Seq) : State :=
  if q = s.journal.frontier then
    let moved := absorb s.journal.completed.length (q + 1) s.journal.completed
    drainTest
      { s with journal.frontier := moved.1, journal.completed := moved.2,
               epoch.advances := s.epoch.advances ++ [moved.1] }
  else { s with journal.completed := s.journal.completed ++ [q] }

/-! ### Capture slots -/

/-- A slot's contents are replaced. -/
def setSlot (s : State) (i : Fin 8) (c : Option CaptureSlot) : State :=
  { s with capture.slots := s.capture.slots.set i.val c i.isLt }

/-- A slot becomes free: the hold queue is told, and the epoch controller tests the drain (R55). -/
def freeSlot (s : State) (i : Fin 8) : State :=
  let t := setSlot s i none
  drainTest { t with hold.passes := t.hold.passes + 1 }

/-- The granule-table entry of a failed capture is removed, if this slot made it and its epoch is current (R57, R59). -/
def dropEntry (s : State) (c : CaptureSlot) : State :=
  if !c.spilled && c.epoch == s.epoch.current then
    { s with capture.table := s.capture.table.filter (fun g => g != c.granule) }
  else s

/-- The slot a write is given (R51 steps 2 and 5). -/
def newSlot (s : State) (r : Request) (w : Fin 16) : CaptureSlot where
  granule := granuleOf r.addr
  epoch := s.epoch.current
  sequence := s.journal.head
  window := w
  spilled := decide (Config.tableCapacity ≤ s.capture.table.length)
  trigger := some r
  stream := r.id.stream
  kind := .preImage
  phase := .readingOld
  image := Vector.replicate 4 none
  awaited := 4
  errorSeen := false
  readsIssued := false

/-- Allocation (R51): the report to the epoch controller waits to be taken (R7). -/
def allocate (s : State) (r : Request) (w : Fin 16) (i : Fin 8) : State :=
  let c := newSlot s r w
  let t := setSlot s i (some c)
  lowWaterTest
    { t with
        journal.head := s.journal.head + 1
        capture.table := if c.spilled then s.capture.table else s.capture.table ++ [c.granule]
        epoch.allocReports := s.epoch.allocReports ++ [⟨c.epoch, c.spilled⟩] }

/-- The five line writes of a PRE_IMAGE record (R53). -/
def recordWrites (j : Journal) (i : Fin 8) (c : CaptureSlot) : List DRequest :=
  let lines := c.imageLines
  recordParts.map (fun k =>
    writeLine (j.slotLine c.sequence k.val)
      (if k = 0 then preImageHeader c (imageCrc lines) else lines.getD (k.val - 1) zeroLine) (.record i))

/-! ### The capture unit's judgement -/

/-- What the capture unit decides of a request (R42 to R45). -/
inductive Judgement where
  | forward
  | hold (cause : HoldCause)
  | allocate (slot : Fin 8)
  deriving DecidableEq, Repr

/-- The checks of R42 to R44, made while the fence is down; `older` says that the hold queue holds an older request for the
granule. -/
def judgeOpen (s : State) (r : Request) (older : Bool) : Judgement :=
  let g := granuleOf r.addr
  if s.capture.holdsGranule g || older then .hold .order
  else match r.kind with
    | .read => .forward
    | .write =>
      if s.epoch.engine = .capturing then
        if g ∈ s.capture.table then .forward
        else match s.capture.freeSlot? with
          | none => .hold .slotWait
          | some i => if s.journal.free = 0 then .hold .journalFull else .allocate i
      else .forward

/-- The judgement of an arrival (R41). -/
def judgeArrival (s : State) (r : Request) : Judgement :=
  if s.epoch.engine.fenceUp then .hold .fence else judgeOpen s r (s.hold.holdsGranule (granuleOf r.addr))

/-- The judgement of a held entry in a pass (R89, R90). -/
def judgeHeld (s : State) (r : Request) (older : Bool) : Judgement :=
  if s.epoch.engine.fenceUp then
    if s.capture.holdsGranule (granuleOf r.addr) then .hold .order else .hold .fence
  else judgeOpen s r older

/-- A request that must be held on arrival: it is placed at the newest end, or answered RETRY when the queue is full (R46, R87). -/
def holdRequest (s : State) (r : Request) (w : Fin 16) (cause : HoldCause) : State :=
  if s.hold.entries.length < Config.holdCapacity then
    { s with hold.entries := s.hold.entries ++ [⟨r, w, cause, s.mgmt.time, false⟩] }
  else respond s r.kind r.id .retry []

/-- The capture unit takes a request on arrival (R41). -/
def takeArrival (s : State) (r : Request) (w : Fin 16) : State :=
  match judgeArrival s r with
  | .forward => forwardRequest s r true
  | .hold cause => holdRequest s r w cause
  | .allocate i => allocate s r w i

/-! ### Passes and expiries -/

/-- The judging of the entries of a pass, oldest first: `kept` holds the older entries that stay (R89). In CAPTURING an exhausted
entry is passed over. -/
def judgeEntries : State → List HeldEntry → List HeldEntry → State × List HeldEntry
  | s, kept, [] => (s, kept)
  | s, kept, e :: rest =>
    if s.epoch.engine = .capturing ∧ e.exhausted then judgeEntries s (kept ++ [e]) rest
    else match judgeHeld s e.request (kept.any (fun k => k.granule == e.granule)) with
      | .forward => judgeEntries (forwardRequest s e.request true) kept rest
      | .allocate i => judgeEntries (allocate s e.request e.window i) kept rest
      | .hold cause => judgeEntries s (kept ++ [{ e with cause := cause }]) rest

/-- One pass of re-evaluation over the whole queue (R89). -/
def runPass (s : State) : State :=
  let p := judgeEntries s [] s.hold.entries
  { p.1 with hold.entries := p.2 }

/-- The status an expiry answers with (R92); a JOURNAL_FULL expiry answers nothing. -/
def expiryStatus : HoldCause → Status
  | .fence => .fenced
  | .order | .slotWait | .journalFull => .expired

/-- An entry leaves the queue by expiry: its requester is answered and HOLD_EXPIRED is posted (R92). -/
def expireEntry (s : State) (e : HeldEntry) : State :=
  post
    (respond { s with hold.entries := s.hold.entries.filter (fun x => x.request.id != e.request.id) }
      e.request.kind e.request.id (expiryStatus e.cause) [])
    (.holdExpired e.cause e.request.kind e.request.id e.request.addr e.window)

/-- An entry's exhausted flag is set (R93). -/
def markExhausted (s : State) (e : HeldEntry) : State :=
  { s with hold.entries :=
      s.hold.entries.map (fun x => if x.request.id = e.request.id then { x with exhausted := true } else x) }

/-- An expiry that answers its requester, followed by a pass of its own (R88, R92). -/
def expireWithPass (s : State) (e : HeldEntry) : State :=
  let t := expireEntry s e
  { t with hold.passes := t.hold.passes + 1 }

/-- The hold queue takes an expiry (R92, R93). -/
def takeExpiry (s : State) (e : HeldEntry) : State :=
  match e.cause with
  | .journalFull => { markExhausted s e with epoch.exhaustions := s.epoch.exhaustions + 1 }
  | .order | .slotWait | .fence => expireWithPass s e

/-- The entries a pass leaves held with cause ORDER, SLOT_WAIT or FENCE at or past tHOLD expire in that pass (R93). -/
def expireOverdue (s : State) : State :=
  (s.hold.entries.filter (fun e => s.overdue e && e.cause != .journalFull)).foldl expireWithPass s

/-- An expiry taken as part of a TIMING_SET, without its pass: a JOURNAL_FULL expiry breaks a CAPTURING engine at once (R96). -/
def expireNow (s : State) (e : HeldEntry) : State :=
  match e.cause with
  | .journalFull =>
    let t := markExhausted s e
    if t.epoch.engine = .capturing then breakEngine t .exhausted else t
  | .order | .slotWait | .fence => expireEntry s e

/-- The expiries of a lowered tHOLD, one by one in queue order, each followed by its pass (R96). Each takes an entry out or sets
its exhausted flag, so twice the entries is fuel enough. -/
def expireAll : Nat → State → State
  | 0, s => s
  | fuel + 1, s =>
    match s.hold.entries.find? (fun e => s.expiryDue e) with
    | none => s
    | some e => expireAll fuel (runPass (expireNow s e))

/-! ### The status writer -/

/-- Line k of a status block is made ready (R158). -/
def readyStatusLine (s : State) (w : StatusWrite) : State :=
  readyReport s
    [writeLine (w.base + BitVec.ofNat 48 (0xF00 + 64 * w.line.val)) w.block[w.line] .status]

/-- The sequence of the next block, never 0 (R158). -/
def nextStatusSeq (q : BitVec 32) : BitVec 32 := if q + 1 = 0 then 1 else q + 1

/-- A block write is begun: the block is built and line 60 is made ready (R158). -/
def beginStatus (s : State) : State :=
  let q := nextStatusSeq s.status.sequence
  let w : StatusWrite := ⟨s.mgmt.cwBase, statusBlock s q, 0, false⟩
  readyStatusLine { s with status.sequence := q, status.inFlight := some w } w

/-- A block write ends; a pending update begins the next (R158, R159). -/
def endStatus (s : State) : State :=
  let t := { s with status.inFlight := none }
  if t.status.updatePending then beginStatus { t with status.updatePending := false } else t

end Sys2Proof.Machine
end

