-- ==== Sys2Proof/Machine/CaptureUnit.lean ====
section
/-! DEFINITION. The capture unit's events: the issue of old-image reads and the answers to reads and record writes
(03_pre_image_capture.md). -/

namespace Sys2Proof.Machine

/-- The oldest allocation report is taken by the epoch controller (R7). -/
def takeAllocReport (s : State) : State :=
  match s.epoch.allocReports with
  | [] => s
  | a :: rest => { s with epoch := countAllocation { s.epoch with allocReports := rest } a }

/-- ALLOCATION_REPORT (R7). -/
def execAllocationReport (s : State) : Host.Outcome State Fault Refusal := act s takeAllocReport

/-- A slot in READING_OLD issues its four reads, once no request to its granule that the capture unit forwarded is waiting in the
FORWARD class (R52, R133, R136; log 29). -/
def issueOldReads (s : State) (i : Fin 8) : State :=
  match s.capture.slot? i with
  | none => s
  | some c =>
    if c.phase = .readingOld ∧ !c.readsIssued ∧ !s.dlink.requestWaiting c.granule then
      readyCapture (setSlot s i (some { c with readsIssued := true }))
        (granuleLines.map (fun k => readLine (granuleLine c.granule k.val) (.oldRead i k)))
    else s

/-- CAPTURE_READS_ISSUE (R52). -/
def execCaptureReadsIssue (slot : Fin 8) (s : State) : Host.Outcome State Fault Refusal :=
  act s (fun s => issueOldReads s slot)

/-- The slot after one answer to an old-image read (R52). -/
def CaptureSlot.takeRead (c : CaptureSlot) (k : Fin 4) (st : DStatus) (data : Line) : CaptureSlot :=
  match st with
  | .ok => { c with image := c.image.set k.val (some data) k.isLt, awaited := c.awaited - 1 }
  | .error => { c with errorSeen := true, awaited := c.awaited - 1 }

/-- The image of a sound capture is written as a PRE_IMAGE record (R53). -/
def beginRecord (s : State) (i : Fin 8) (c : CaptureSlot) : State :=
  let d := { c with phase := .writingRecord, awaited := 5, errorSeen := false }
  readyCapture (setSlot s i (some d)) (recordWrites s.journal i d)

/-- A capture read fault (R57): the trigger is answered, the entry removed, the VOID header written (R58) and CAPTURE_FAULT
posted. -/
def captureReadFault (s : State) (i : Fin 8) (c : CaptureSlot) : State :=
  let t := match c.trigger with
    | some r => respond s .write r.id .captureFailed []
    | none => s
  let d := { c with trigger := none, kind := .void, phase := .writingRecord, image := Vector.replicate 4 none,
                    awaited := 1, errorSeen := false }
  post
    (readyCapture (setSlot (dropEntry t c) i (some d)) [writeLine (s.journal.slotLine c.sequence 0) (voidHeader d) (.void i)])
    (.captureFault c.granule c.sequence c.epoch (c.trigger.map (fun r => r.id)))

/-- A slot takes the answer to one of its old-image reads; it acts at the fourth (R52). -/
def takeOldRead (t : State) (i : Fin 8) (k : Fin 4) (st : DStatus) (data : Line) : State :=
  match t.capture.slotIn i .readingOld .preImage with
  | none => t
  | some c =>
    let d := c.takeRead k st data
    if d.awaited ≠ 0 then setSlot t i (some d)
    else if d.errorSeen then captureReadFault t i d
    else beginRecord t i d

/-- OLD_IMAGE_READ_ANSWER (R52). -/
def execOldImageReadAnswer (id : Ident) (st : DStatus) (data : Line) (s : State) : Host.Outcome State Fault Refusal :=
  act s (fun s => takeAnswer s id (fun o t =>
    match o with
    | .oldRead i k => some (takeOldRead t i k st data)
    | .forwarded _ _ _ _ | .trigger _ | .record _ | .void _ | .marker _ | .restoreRead _ | .writeBack | .notice | .status
    | .abandoned => none))

/-- The trigger of a finished record is forwarded, or the slot becomes free if it is absent (R54, R59). -/
def forwardTrigger (s : State) (i : Fin 8) (c : CaptureSlot) : State :=
  match c.trigger with
  | some r =>
    readyForward (setSlot s i (some { c with phase := .forwarding, awaited := 1, errorSeen := false }))
      [forwardOf r (.trigger i)]
  | none => freeSlot s i

/-- A slot takes the answer to one of its five record writes; it acts at the fifth (R54, R59). -/
def takeRecordWrite (t : State) (i : Fin 8) (st : DStatus) : State :=
  match t.capture.slotIn i .writingRecord .preImage with
  | none => t
  | some c =>
    let d := { c with awaited := c.awaited - 1, errorSeen := c.errorSeen || st == .error }
    if d.awaited ≠ 0 then setSlot t i (some d)
    else if d.errorSeen then forwardTrigger (dropEntry (journalWriteFault t) d) i d
    else forwardTrigger (complete t d.sequence) i d

/-- RECORD_WRITE_ANSWER (R54). -/
def execRecordWriteAnswer (id : Ident) (st : DStatus) (s : State) : Host.Outcome State Fault Refusal :=
  act s (fun s => takeAnswer s id (fun o t =>
    match o with
    | .record i => some (takeRecordWrite t i st)
    | .forwarded _ _ _ _ | .trigger _ | .oldRead _ _ | .void _ | .marker _ | .restoreRead _ | .writeBack | .notice | .status
    | .abandoned => none))

/-- A slot takes the answer to its VOID write and becomes free (R58, R60). -/
def takeVoidWrite (t : State) (i : Fin 8) (st : DStatus) : State :=
  match t.capture.slotIn i .writingRecord .void with
  | none => t
  | some c =>
    match st with
    | .ok => freeSlot (complete t c.sequence) i
    | .error => freeSlot (journalWriteFault t) i

/-- VOID_WRITE_ANSWER (R58). -/
def execVoidWriteAnswer (id : Ident) (st : DStatus) (s : State) : Host.Outcome State Fault Refusal :=
  act s (fun s => takeAnswer s id (fun o t =>
    match o with
    | .void i => some (takeVoidWrite t i st)
    | .forwarded _ _ _ _ | .trigger _ | .oldRead _ _ | .record _ | .marker _ | .restoreRead _ | .writeBack | .notice | .status
    | .abandoned => none))

end Sys2Proof.Machine
end

