-- ==== Sys2Proof/Machine/Commands.lean ====
section
/-! DEFINITION. The command unit: taking the oldest queued command (R150), its answer (R151), and the judgement and change of each
of the twelve commands by the block that owns the state (R27 to R32, R66, R67, R8, R9, R15 to R19, R103 to R105, R117 to R119,
R171 to R173, R153, R154). -/

namespace Sys2Proof.Machine

/-- DONE and STARTED are acceptances (R152). -/
def Result.accepted : Result → Bool
  | .done | .started => true
  | .badOpcode | .badArgument | .state | .busy | .overlap | .epochActive | .indexFull | .journalFull | .notRecoverable
  | .noJournal | .unknownEpoch => false

/-- A command is answered (R151). An accepted NOTICE_ACK posts no COMMAND_DONE. -/
def answer (s : State) (q : QueuedCommand) (r : Result) : State :=
  let t := { s with cmd.taken := s.cmd.taken + 1, cmd.last := some ⟨q.tag, q.opcode, r⟩ }
  askStatus (if q.opcode = Opcode.noticeAck.code ∧ r.accepted then t else post t (.commandDone q.tag q.opcode r))

/-- What the owning block does with a command: its judgement, the change it makes if it accepts, and what the change sets in motion
behind the COMMAND_DONE notice (R150, R151). -/
structure Rule where
  judge : State → Line → Result
  change : State → Line → State
  after : State → Line → State

/-- The command is judged, and if it is accepted changed and answered in one action. -/
def applyRule (rule : Rule) (q : QueuedCommand) (s : State) : State :=
  let r := rule.judge s q.args
  if r.accepted then rule.after (answer (rule.change s q.args) q r) q.args else answer s q r

/-- The command unit takes the oldest queued command, if it is the one the event names (R150); none is taken in OFFLINE (R155). -/
def takeCommand (s : State) (isIt : Byte → Bool) (rule : Rule) : State :=
  match s.cmd.queue with
  | [] => s
  | q :: rest =>
    if s.mgmt.device ≠ .offline ∧ isIt q.opcode then applyRule rule q { s with cmd.queue := rest } else s

/-- The event of taking one of the twelve commands. -/
def takeNamed (op : Opcode) (rule : Rule) (s : State) : Host.Outcome State Fault Refusal :=
  act s (fun s => takeCommand s (fun b => b == op.code) rule)

/-- A command whose change sets nothing further in motion. -/
def nothingAfter (s : State) (_ : Line) : State := s

/-! ### WINDOW_SET -/

/-- The mode of the window an index names. -/
def windowMode (s : State) (index : Nat) : WindowMode := (s.windows[index]?.map (fun w => w.mode)).getD .off

/-- The present range of a window. -/
def windowRange (s : State) (index : Nat) : Option Area := s.windows[index]?.bind (fun w => w.area?)

/-- A requested range meets another area that exists (R31). -/
def windowOverlaps (s : State) (a : WindowArgs) : Bool :=
  a.area?.any (fun r =>
    meetsWindow s.windows (some a.index) r || meetsOpt r s.commandArea? || meetsOpt r s.journalArea? || meetsOpt r s.noticeArea?)

/-- The judgement of WINDOW_SET (R28). -/
def judgeWindowSet (s : State) (l : Line) : Result :=
  let a := windowArgs l
  let touchesJournal := a.mode = 1 ∨ windowMode s a.index = .journal
  if !a.ok then .badArgument
  else if a.mode = 1 ∧ s.mgmt.device ≠ .running then .noJournal
  else if touchesJournal ∧ !s.epochCondition then .epochActive
  else if windowMode s a.index = .journal ∧ (windowRange s a.index).any (fun r => s.workIn r) then .busy
  else if windowOverlaps s a then .overlap
  else .done

/-- The setting replaces the window's five fields (R27, R32). -/
def changeWindowSet (s : State) (l : Line) : State :=
  let a := windowArgs l
  { s with windows := s.windows.setIfInBounds a.index a.contents }

/-- WINDOW_SET (R28). -/
def execWindowSet (s : State) : Host.Outcome State Fault Refusal :=
  takeNamed .windowSet ⟨judgeWindowSet, changeWindowSet, nothingAfter⟩ s

/-! ### JOURNAL_SET and JOURNAL_CLEAR -/

/-- A journal area meets another area that exists (R66). -/
def journalOverlaps (s : State) (a : Area) : Bool :=
  meetsWindow s.windows none a || meetsOpt a s.commandArea? || meetsOpt a s.noticeArea?

/-- The judgement of JOURNAL_SET (R66). -/
def judgeJournalSet (s : State) (l : Line) : Result :=
  let base := journalBaseArg l
  let n := journalSizeArg l
  if s.mgmt.device ≠ .listening then .state
  else if base % 4096 ≠ 0 then .badArgument
  else if !journalSizeOk n then .badArgument
  else if Config.lastAddress < base + n * 320 - 1 then .badArgument
  else if journalOverlaps s (journalArea base n) then .overlap
  else .done

/-- The journal is configured, the device becomes RUNNING and epoch 1 opens (R66, R18). -/
def changeJournalSet (s : State) (l : Line) : State :=
  setEngine
    { s with
      mgmt.device := .running
      journal.base := BitVec.ofNat 48 (journalBaseArg l)
      journal.slots := journalSizeArg l
      journal.head := 0
      journal.frontier := 0
      journal.release := 0
      journal.completed := []
      epoch := { s.epoch with
        current := 1, index := [⟨1, 0, none, .opened, 0, none⟩], captureCount := 0, spillCount := 0, target := none,
        markers := [], quiet := .stopped, allocReports := [], advances := [], exhaustions := 0 } }
    .capturing

/-- JOURNAL_SET (R66). -/
def execJournalSet (s : State) : Host.Outcome State Fault Refusal :=
  takeNamed .journalSet ⟨judgeJournalSet, changeJournalSet, fun s _ => lowWaterTest s⟩ s

/-- The judgement of JOURNAL_CLEAR (R19). -/
def judgeJournalClear (s : State) (_ : Line) : Result :=
  if s.mgmt.device ≠ .running then .noJournal
  else if !(s.epoch.engine == .capturing || s.epoch.engine.isBroken) then .busy
  else if s.windows.toList.any (fun w => w.mode == .journal) then .state
  else if !s.journalQuiet then .busy
  else .done

/-- The journal and the epoch state are removed (R19, R67). -/
def changeJournalClear (s : State) (_ : Line) : State :=
  setEngine
    { s with
      mgmt.device := .listening
      journal := { Journal.reset with lwm := s.journal.lwm }
      epoch := { EpochController.reset with tQuiet := s.epoch.tQuiet }
      capture.table := []
      restore := Restore.reset }
    .absent

/-- JOURNAL_CLEAR (R19). -/
def execJournalClear (s : State) : Host.Outcome State Fault Refusal :=
  takeNamed .journalClear ⟨judgeJournalClear, changeJournalClear, nothingAfter⟩ s

/-! ### JOURNAL_RELEASE -/

/-- An epoch is older than the stored rollback target (R15). -/
def olderThanTarget (e : EpochController) (n : EpochNo) : Bool :=
  e.target.any (fun t => (olderThan e.index t).any (fun x => x.number == n))

/-- The judgement of JOURNAL_RELEASE (R15). -/
def judgeJournalRelease (s : State) (l : Line) : Result :=
  let n := s.epoch.resolve (epochArg l)
  if s.mgmt.device ≠ .running then .noJournal
  else if s.epoch.engine = .draining ∨ s.epoch.engine = .restoring then .busy
  else match s.epoch.entry? n with
    | none => .unknownEpoch
    | some e =>
      if e.state ≠ .closed then .state
      else if s.epoch.engine.brokenRetryable ∧ !olderThanTarget s.epoch n then .busy
      else .done

/-- Release moves past the epoch's marker, and the epoch and all older ones leave the index (R16, R74). -/
def changeJournalRelease (s : State) (l : Line) : State :=
  let n := s.epoch.resolve (epochArg l)
  let point := ((s.epoch.entry? n).bind (fun e => e.marker)).elim s.journal.release (fun m => m + 1)
  { s with
    journal.release := point
    epoch.index := s.epoch.index.drop ((olderThan s.epoch.index n).length + 1)
    hold.passes := s.hold.passes + 1 }

/-- JOURNAL_RELEASE (R15). -/
def execJournalRelease (s : State) : Host.Outcome State Fault Refusal :=
  takeNamed .journalRelease ⟨judgeJournalRelease, changeJournalRelease, fun s _ => lowWaterTest s⟩ s

/-! ### EPOCH_COMMIT -/

/-- The judgement of EPOCH_COMMIT (R8). -/
def judgeEpochCommit (s : State) (_ : Line) : Result :=
  if s.mgmt.device ≠ .running then .noJournal
  else if s.epoch.engine ≠ .capturing then .state
  else if Config.indexCapacity ≤ s.epoch.index.length then .indexFull
  else if s.journal.free = 0 then .journalFull
  else .started

/-- EPOCH_COMMIT (R8). -/
def execEpochCommit (s : State) : Host.Outcome State Fault Refusal :=
  takeNamed .epochCommit ⟨judgeEpochCommit, fun s _ => commit s .command, fun s _ => lowWaterTest s⟩ s

/-! ### EPOCH_ROLLBACK and ROLLBACK_ABORT -/

/-- The judgement of EPOCH_ROLLBACK (R103). -/
def judgeEpochRollback (s : State) (l : Line) : Result :=
  let n := s.epoch.resolve (epochArg l)
  if s.mgmt.device ≠ .running then .noJournal
  else if s.epoch.engine = .draining ∨ s.epoch.engine = .restoring then .busy
  else if s.epoch.engine.brokenLost then .notRecoverable
  else match s.epoch.entry? n with
    | none => .unknownEpoch
    | some _ =>
      if s.epoch.engine.brokenRetryable ∧ !(s.epoch.target == some n || olderThanTarget s.epoch n) then .state
      else .started

/-- The target is stored and the engine enters DRAINING with the fence up (R104, R105). -/
def changeEpochRollback (s : State) (l : Line) : State :=
  setEngine { s with epoch.target := some (s.epoch.resolve (epochArg l)) } .draining

/-- EPOCH_ROLLBACK (R103): the drain test is made at once, behind the answer. -/
def execEpochRollback (s : State) : Host.Outcome State Fault Refusal :=
  takeNamed .epochRollback ⟨judgeEpochRollback, changeEpochRollback, fun s _ => drainTest s⟩ s

/-- The judgement of ROLLBACK_ABORT (R117). -/
def judgeRollbackAbort (s : State) (_ : Line) : Result :=
  if s.mgmt.device ≠ .running then .noJournal
  else match s.epoch.engine with
    | .draining => .done
    | .restoring => if s.restore.abortPending then .busy else .started
    | .absent | .capturing | .broken _ => .state

/-- In DRAINING the rollback is abandoned (R118); in RESTORING the abort becomes pending (R119). -/
def changeRollbackAbort (s : State) (_ : Line) : State :=
  if s.epoch.engine = .draining then setEngine { s with epoch.target := none } .capturing
  else { s with restore.abortPending := true }

/-- ROLLBACK_ABORT (R117). -/
def execRollbackAbort (s : State) : Host.Outcome State Fault Refusal :=
  takeNamed .rollbackAbort ⟨judgeRollbackAbort, changeRollbackAbort, nothingAfter⟩ s

/-! ### EPOCH_RESUME -/

/-- The judgement of EPOCH_RESUME (R17). -/
def judgeEpochResume (s : State) (_ : Line) : Result :=
  if s.mgmt.device ≠ .running then .noJournal
  else if !s.epoch.engine.isBroken then .state
  else if !s.journalQuiet then .busy
  else .done

/-- The journal's contents are given up and a fresh epoch opens at head (R17, R76). The release the journal unit reports and the
engine change cause a pass each (R88). -/
def changeEpochResume (s : State) (_ : Line) : State :=
  let number := nextNumber s.epoch.current []
  setEngine
    { s with
      journal.release := s.journal.head
      journal.frontier := s.journal.head
      journal.completed := []
      epoch := { s.epoch with
        index := [⟨number, s.journal.head, none, .opened, 0, none⟩], current := number, captureCount := 0, spillCount := 0,
        target := none, allocReports := [], advances := [] }
      capture.table := []
      hold.passes := s.hold.passes + 1 }
    .capturing

/-- EPOCH_RESUME (R17). -/
def execEpochResume (s : State) : Host.Outcome State Fault Refusal :=
  takeNamed .epochResume ⟨judgeEpochResume, changeEpochResume, fun s _ => lowWaterTest s⟩ s

/-! ### NOTICE_SET and NOTICE_ACK -/

/-- A notice area meets another area that exists (R171). -/
def ringOverlaps (s : State) (a : Area) : Bool :=
  meetsWindow s.windows none a || meetsOpt a s.commandArea? || meetsOpt a s.journalArea?

/-- The judgement of NOTICE_SET (R171). -/
def judgeNoticeSet (s : State) (l : Line) : Result :=
  let a := ringArgs l
  if !a.ok then .badArgument
  else if s.notice.inFlight.isSome ∨ (s.notice.configured ∧ s.notice.unacked ≠ 0) then .busy
  else if ringOverlaps s (noticeArea a.base a.size) then .overlap
  else .done

/-- The ring is configured (R172). -/
def changeNoticeSet (s : State) (l : Line) : State :=
  let a := ringArgs l
  tryRingWrite
    (updateAttn { s with notice := { s.notice with
      configured := true, base := BitVec.ofNat 48 a.base, size := a.size, threshold := a.threshold, tFlush := a.tFlush,
      urgent := BitVec.ofNat 16 a.urgent, writePos := 0, ackPos := 0, lastUrgent := none, flush := .stopped,
      pathStopped := false } })

/-- NOTICE_SET (R171). -/
def execNoticeSet (s : State) : Host.Outcome State Fault Refusal :=
  takeNamed .noticeSet ⟨judgeNoticeSet, changeNoticeSet, nothingAfter⟩ s

/-- The judgement of NOTICE_ACK (R173). -/
def judgeNoticeAck (s : State) (l : Line) : Result :=
  if (positionArg l - s.notice.ackPos).toNat ≤ s.notice.unacked then .done else .badArgument

/-- The acknowledged position moves (R173). -/
def changeNoticeAck (s : State) (l : Line) : State :=
  let t := { s with notice.ackPos := positionArg l }
  let u := if t.notice.unacked = 0 then { t with notice.flush := .stopped } else t
  tryRingWrite (updateAttn u)

/-- NOTICE_ACK (R173). -/
def execNoticeAck (s : State) : Host.Outcome State Fault Refusal :=
  takeNamed .noticeAck ⟨judgeNoticeAck, changeNoticeAck, nothingAfter⟩ s

/-! ### TIMING_SET and STATUS_SNAPSHOT -/

/-- The judgement of TIMING_SET (R153). -/
def judgeTimingSet (s : State) (l : Line) : Result :=
  let a := timingArgs l
  if a.tHold = 0 ∨ 65535 < a.tHold ∨ 65535 < a.tQuiet ∨ Config.maxSlots < a.lwm ∨
      (s.mgmt.device = .running ∧ s.journal.slots < a.lwm) then .badArgument
  else .done

/-- The quiet timer under a new tQUIET (R13). -/
def retimeQuiet (old new : Nat) (q : QuietTimer) : QuietTimer :=
  if new = 0 then .stopped
  else if new = old then q
  else match q with
    | .stopped => .stopped
    | .running _ => quietFull new

/-- The hold queue and the epoch controller store their values; the low-water mark and the expiries follow behind the answer. -/
def changeTimingSet (s : State) (l : Line) : State :=
  let a := timingArgs l
  { s with epoch.tQuiet := a.tQuiet, epoch.quiet := retimeQuiet s.epoch.tQuiet a.tQuiet s.epoch.quiet }

/-- The journal unit takes LWM (R82). -/
def applyLwm (s : State) (lwm : Nat) : State :=
  let t := { s with journal.lwm := lwm }
  if lwm ≠ s.journal.lwm ∧ s.mgmt.device = .running then lowWaterTest t else t

/-- The hold queue takes tHOLD; a lowered value expires the entries at or past it (R96). -/
def applyHold (s : State) (tHold : Nat) : State :=
  let t := { s with hold.tHold := tHold }
  if tHold < s.hold.tHold then expireAll (2 * s.hold.entries.length) t else t

/-- The journal unit and the hold queue take their values, in the order the event gives (R153, R165). -/
def afterTimingSet (lwmFirst : Bool) (s : State) (l : Line) : State :=
  let a := timingArgs l
  if lwmFirst then applyHold (applyLwm s a.lwm) a.tHold else applyLwm (applyHold s a.tHold) a.lwm

/-- TIMING_SET (R153). -/
def execTimingSet (lwmFirst : Bool) (s : State) : Host.Outcome State Fault Refusal :=
  takeNamed .timingSet ⟨judgeTimingSet, changeTimingSet, afterTimingSet lwmFirst⟩ s

/-- STATUS_SNAPSHOT (R154). -/
def execStatusSnapshot (s : State) : Host.Outcome State Fault Refusal :=
  takeNamed .statusSnapshot ⟨fun _ _ => .done, fun s _ => s, nothingAfter⟩ s

/-! ### Unknown opcodes -/

/-- BAD_OPCODE (R150): the command is refused without dispatch. -/
def execBadOpcode (s : State) : Host.Outcome State Fault Refusal :=
  act s (fun s => takeCommand s (fun b => !opcodeKnown b) ⟨fun _ _ => .badOpcode, fun s _ => s, nothingAfter⟩)

end Sys2Proof.Machine
end

