-- ==== Sys2Proof/Machine/EpochUnit.lean ====
section
/-! DEFINITION. The epoch controller's events that are no commands: marker answers, frontier advances, exhaustion reports and the
quiet timer's expiry (01_epochs.md). -/

namespace Sys2Proof.Machine

/-- A marker after one answer to a line write. -/
def MarkerWrite.take (m : MarkerWrite) (st : DStatus) : MarkerWrite :=
  { m with awaited := m.awaited - 1, errorSeen := m.errorSeen || st == .error }

/-- An answer to a marker's line write is counted; after the fifth the marker is complete, or a journal write fault is taken
(R11). -/
def takeMarkerWrite (t : State) (q : Seq) (st : DStatus) : State :=
  match t.epoch.markers.find? (fun m => m.sequence == q) with
  | none => t
  | some m =>
    let n := m.take st
    if n.awaited ≠ 0 then
      { t with epoch.markers := t.epoch.markers.map (fun x => if x.sequence = q then n else x) }
    else
      let u := { t with epoch.markers := t.epoch.markers.filter (fun x => x.sequence != q) }
      if n.errorSeen then journalWriteFault u else complete u q

/-- MARKER_WRITE_ANSWER (R11). -/
def execMarkerWriteAnswer (id : Ident) (st : DStatus) (s : State) : Host.Outcome State Fault Refusal :=
  act s (fun s => takeAnswer s id (fun o t =>
    match o with
    | .marker q => some (takeMarkerWrite t q st)
    | .forwarded _ _ _ _ | .trigger _ | .oldRead _ _ | .record _ | .void _ | .restoreRead _ | .writeBack | .notice | .status
    | .abandoned => none))

/-- The oldest frontier advance is taken, and the drain is tested (R12, R106). -/
def takeOldestAdvance (s : State) : State :=
  match s.epoch.advances with
  | [] => s
  | f :: rest => drainTest (takeAdvance { s with epoch.advances := rest } f)

/-- FRONTIER_ADVANCE_REPORT (R12). -/
def execFrontierAdvanceReport (s : State) : Host.Outcome State Fault Refusal := act s takeOldestAdvance

/-- A journal exhaustion report is taken: it breaks a CAPTURING engine (R93). -/
def takeExhaustion (s : State) : State :=
  if s.epoch.exhaustions = 0 then s
  else
    let t := { s with epoch.exhaustions := s.epoch.exhaustions - 1 }
    if t.epoch.engine = .capturing then enterBroken t .exhausted else t

/-- EXHAUSTION_REPORT (R93). -/
def execExhaustionReport (s : State) : Host.Outcome State Fault Refusal := act s takeExhaustion

/-- The conditions of an automatic commit (R14). -/
def quietCommitOk (s : State) : Bool :=
  s.epoch.engine == .capturing && decide (0 < s.epoch.captureCount) &&
  decide (s.epoch.index.length < Config.indexCapacity) && decide (0 < s.journal.free)

/-- The quiet timer has run out: it is restarted, and an automatic commit is made if its conditions hold (R14). -/
def takeQuietExpiry (s : State) : State :=
  if s.epoch.quiet = .running 0 then
    let t := { s with epoch.quiet := quietFull s.epoch.tQuiet }
    if quietCommitOk t then lowWaterTest (commit t .quiet) else t
  else s

/-- QUIET_EXPIRY (R14). -/
def execQuietExpiry (s : State) : Host.Outcome State Fault Refusal := act s takeQuietExpiry

end Sys2Proof.Machine
end

