-- ==== Sys2Proof/Machine/HoldUnit.lean ====
section
/-! DEFINITION. The hold queue's events: passes of re-evaluation and expiries (05_the_hold_queue.md). -/

namespace Sys2Proof.Machine

/-- The pass of one event is run (R88, R89); what it leaves held past tHOLD expires in it (R93). -/
def takePass (s : State) : State :=
  if s.hold.passes = 0 then s
  else expireOverdue (runPass { s with hold.passes := s.hold.passes - 1 })

/-- REEVALUATION_PASS (R89). -/
def execReevaluationPass (s : State) : Host.Outcome State Fault Refusal := act s takePass

/-- The expiry of the held request with an identity is taken, if it is due (R92). -/
def takeHoldExpiry (s : State) (id : Ident) : State :=
  match s.hold.entries.find? (fun e => e.request.id == id) with
  | none => s
  | some e => if s.expiryDue e then takeExpiry s e else s

/-- HOLD_EXPIRY (R92). -/
def execHoldExpiry (id : Ident) (s : State) : Host.Outcome State Fault Refusal := act s (fun s => takeHoldExpiry s id)

end Sys2Proof.Machine
end

