-- ==== Sys2Proof/Machine/Links.lean ====
section
/-! DEFINITION. The links: upstream requests and their classification, the command decoder's judgement of an offered line, the
D-link arbiter, forwarded responses and the upstream link reset (02, 07 and 08 of spec/). -/

namespace Sys2Proof.Machine

/-! ### Classification (R34 to R39) -/

/-- The path of a request (the table before R34). -/
inductive Path where
  | forward
  | refuse
  | guardHit (window : Fin 16)
  | journaled (window : Fin 16)
  | command (line : Nat)
  deriving DecidableEq, Repr

/-- The window whose range holds an address (R34); no two non-OFF windows share one (R26). -/
def windowAt (ws : Vector Window 16) (a : Addr) : Option (Fin 16) :=
  ([0, 1, 2, 3, 4, 5, 6, 7, 8, 9, 10, 11, 12, 13, 14, 15] : List (Fin 16)).find?
    (fun k => (ws[k].area?).any (fun r => r.holds a.toNat))

/-- The bytes a request touches meet an area (R34). -/
def touches (r : Request) (a : Option Area) : Bool := meetsOpt ⟨r.addr.toNat, r.addr.toNat + r.length - 1⟩ a

/-- An area that exists holds an address. -/
def holdsOpt (a : Option Area) (x : Addr) : Bool := a.any (fun r => r.holds x.toNat)

/-- The path of a protected area: writes are refused and reads forwarded (R39). -/
def protectedPath (k : ReqKind) : Path :=
  match k with
  | .write => .refuse
  | .read => .forward

/-- The path in a watch window, by its mode and the kind; JOURNAL only while RUNNING (R24, the table before R34). -/
def windowPath (s : State) (k : ReqKind) (w : Fin 16) : Path :=
  match s.windows[w].mode, k with
  | .journal, _ => if s.mgmt.device = .running then .journaled w else .forward
  | .guard, .write => .guardHit w
  | .guard, .read => .forward
  | .off, _ => .forward

/-- The path in the command window, by line number and kind (R37, R39). -/
def commandPath (s : State) (r : Request) : Path :=
  let line := (r.addr.toNat - s.mgmt.cwBase.toNat) / 64
  match r.kind with
  | .read => .forward
  | .write => if line ≤ 59 then .command line else .refuse

/-- The path of a request (R34). -/
def classify (s : State) (r : Request) : Path :=
  if s.mgmt.device = .offline then .forward
  else if touches r s.noticeArea? then protectedPath r.kind
  else match windowAt s.windows r.addr with
    | some w => windowPath s r.kind w
    | none =>
      if holdsOpt s.commandArea? r.addr then commandPath s r
      else if holdsOpt s.journalArea? r.addr then protectedPath r.kind
      else .forward

/-! ### The command decoder (R145 to R148) -/

/-- The decoder takes an offered write (R145). -/
def offer (s : State) (r : Request) (line : Nat) : State :=
  if !s.streamPermitted r.id.stream then post s (.foreignCommand r.id.stream line)
  else if !wholeLine r then post s (.commandDropped .malformed r.id.stream line none)
  else
    let l := lineOfBytes r.data
    if !markerOk l then post s (.commandDropped .malformed r.id.stream line none)
    else if Config.commandCapacity ≤ s.cmd.queue.length then
      post s (.commandDropped .queueFull r.id.stream line (some (lineTag l, lineOpcode l)))
    else { s with cmd.queue := s.cmd.queue ++ [⟨r.id.stream, line, lineOpcode l, lineTag l, l⟩] }

/-! ### Upstream requests -/

/-- A request of a JOURNAL window is taken by the capture unit: a write of a quiet-reload window restarts the quiet timer whatever
the outcome (R13, R41). -/
def takeJournaled (s : State) (r : Request) (w : Fin 16) : State :=
  let t := if r.kind = .write ∧ s.windows[w].quietReload then restartQuiet s else s
  takeArrival t r w

/-- A request is sent down its path. -/
def followPath (s : State) (r : Request) : Path → State
  | .forward => forwardRequest s r false
  | .refuse => respond s r.kind r.id .refused []
  | .guardHit w =>
    let t := respond s r.kind r.id .refused []
    if s.windows[w].guardReport then post t (.guardHit w r.id r.addr r.length) else t
  | .journaled w => takeJournaled s r w
  | .command line => offer (forwardRequest s r false) r line

/-- A request is taken by the U-link port (R127, R128). -/
def takeRequest (s : State) (r : Request) : State :=
  if !formOk r then refuseAtPort s r
  else if r.id ∈ s.ulink.outstanding then refuseAtPort s r
  else
    let t := { s with ulink.outstanding := s.ulink.outstanding ++ [r.id] }
    followPath t r (classify t r)

/-- UPSTREAM_REQUEST (R127). -/
def execUpstreamRequest (r : Request) (s : State) : Host.Outcome State Fault Refusal :=
  act s (fun s => takeRequest s r)

/-! ### Upstream link reset (R139, R140) -/

/-- The dropped mark is set. -/
def Origin.drop : Origin → Origin
  | .forwarded id kind _ byCapture => .forwarded id kind true byCapture
  | o => o

/-- The trigger of a busy slot is made absent (R62). -/
def CaptureSlot.loseTrigger (c : CaptureSlot) : CaptureSlot := { c with trigger := none }

/-- The slots, each changed. -/
def mapSlots (f : Option CaptureSlot → Option CaptureSlot) (v : Vector (Option CaptureSlot) 8) :
    Vector (Option CaptureSlot) 8 :=
  ⟨⟨v.toList.map f⟩, by simp⟩

/-- The U-link port, the hold queue (R100) and the capture unit (R62) take an upstream link reset. -/
def resetUpstream (s : State) : State :=
  { s with
    ulink.outstanding := []
    dlink.forward := s.dlink.forward.map (fun q => { q with origin := q.origin.drop })
    dlink.inUse := s.dlink.inUse.map (fun u => { u with origin := u.origin.drop })
    hold.entries := []
    capture.slots := mapSlots (fun o => o.map CaptureSlot.loseTrigger) s.capture.slots }

/-- UPSTREAM_LINK_RESET (R139). -/
def execUpstreamLinkReset (s : State) : Host.Outcome State Fault Refusal := act s resetUpstream

/-! ### The arbiter (R137) -/

/-- The queue of a class. -/
def DLink.queue (d : DLink) : TrafficClass → List DRequest
  | .forward => d.forward
  | .capture => d.capture
  | .restore => d.restore
  | .report => d.report

/-- The cyclic order of the classes, starting after the one served last. -/
def afterClass : TrafficClass → List TrafficClass
  | .forward => [.capture, .restore, .report, .forward]
  | .capture => [.restore, .report, .forward, .capture]
  | .restore => [.report, .forward, .capture, .restore]
  | .report => [.forward, .capture, .restore, .report]

/-- The class the arbiter chooses: the first in cyclic order that holds a ready request. -/
def DLink.choose (d : DLink) : Option TrafficClass :=
  (afterClass d.lastServed).find? (fun c => !(d.queue c).isEmpty)

/-- The oldest request of a class leaves its queue. -/
def DLink.popClass (d : DLink) : TrafficClass → DLink
  | .forward => { d with forward := d.forward.drop 1 }
  | .capture => { d with capture := d.capture.drop 1 }
  | .restore => { d with restore := d.restore.drop 1 }
  | .report => { d with report := d.report.drop 1 }

/-- The identity of a number below 16,384. -/
def identOfNat (n : Nat) : Ident := ⟨BitVec.ofNat 6 (n / 256), BitVec.ofNat 8 n⟩

/-- The identity the arbiter takes from its pool (R132): the one wanted if it is free, and else the lowest-numbered free one, so that
a request is issued whenever an identity is free (R137). Which free one is the model's operand, and a pair that a forwarded request has
upstream is not shut out: R132 makes the two pools separate, not their numbers (log 4). -/
def DLink.pick (d : DLink) (want : Ident) : Option Ident :=
  if d.isFree want then some want
  else ((List.range 16384).find? (fun n => d.isFree (identOfNat n))).map identOfNat

/-- The arbiter issues a request with an identity of its own (R132, R137). -/
def DLink.issue (d : DLink) (c : TrafficClass) (q : DRequest) (id : Ident) : DLink :=
  { d.popClass c with
    lastServed := c
    inUse := d.inUse ++ [⟨id, q.origin⟩]
    issued := d.issued ++ [⟨id, q.kind, q.addr, q.length, q.data, q.mask⟩] }

/-- The choice of the arbiter when the D-link can take a request (R137). -/
def arbitrate (s : State) (want : Ident) : State :=
  match s.dlink.choose with
  | none => s
  | some c =>
    match s.dlink.queue c, s.dlink.pick want with
    | q :: _, some id => { s with dlink := s.dlink.issue c q id }
    | _, _ => s

/-- ARBITER_ISSUE (R137). -/
def execArbiterIssue (want : Ident) (s : State) : Host.Outcome State Fault Refusal :=
  act s (fun s => arbitrate s want)

/-! ### Responses to forwarded requests and triggers -/

/-- The upstream status of a D-link status (R134). -/
def mapStatus : DStatus → Status
  | .ok => .ok
  | .error => .memError

/-- The data of an upstream response: a READ's data when memory answered OK, and none otherwise (R129). Data of another length than
the READ asked for is passed on as it came, which is the model's choice (log 30). -/
def responseData (kind : ReqKind) (st : DStatus) (data : List Byte) : List Byte :=
  match kind, st with
  | .read, .ok => data
  | .read, .error => []
  | .write, _ => []

/-- FORWARD_RESPONSE (R134): a dropped request's response is discarded (R139). -/
def execForwardResponse (id : Ident) (st : DStatus) (data : List Byte) (s : State) : Host.Outcome State Fault Refusal :=
  act s (fun s => takeAnswer s id (fun o t =>
    match o with
    | .forwarded up kind dropped _ => some (if dropped then t else respond t kind up (mapStatus st) (responseData kind st data))
    | .trigger _ | .oldRead _ _ | .record _ | .void _ | .marker _ | .restoreRead _ | .writeBack | .notice | .status
    | .abandoned => none))

/-- A slot takes its trigger's response and becomes free (R55). -/
def takeTriggerResponse (t : State) (i : Fin 8) (st : DStatus) : State :=
  match t.capture.slotIn i .forwarding .preImage with
  | none => t
  | some c =>
    let u := match c.trigger with
      | some r => respond t .write r.id (mapStatus st) []
      | none => t
    freeSlot u i

/-- TRIGGER_RESPONSE (R55). -/
def execTriggerResponse (id : Ident) (st : DStatus) (s : State) : Host.Outcome State Fault Refusal :=
  act s (fun s => takeAnswer s id (fun o t =>
    match o with
    | .trigger i => some (takeTriggerResponse t i st)
    | .forwarded _ _ _ _ | .oldRead _ _ | .record _ | .void _ | .marker _ | .restoreRead _ | .writeBack | .notice | .status
    | .abandoned => none))

/-- DLINK_STALE_RESPONSE (R132): a response whose identity is not in use is ignored; an identity whose work a soft reset has ended
returns to the pool (R141). -/
def execDlinkStaleResponse (id : Ident) (_st : DStatus) (_data : List Byte) (s : State) :
    Host.Outcome State Fault Refusal :=
  act s (fun s => takeAnswer s id (fun _ _ => none))

end Sys2Proof.Machine
end

