-- ==== Sys2Proof/Machine/ManagementPort.lean ====
section
/-! DEFINITION. The management port: frames, the device states and the reset events (10_management_port_and_device_states.md). -/

namespace Sys2Proof.Machine

/-! ### Frames (R180, R198) -/

/-- The number a list of bits spells, first bit most significant (R198). -/
def bitsValue (bits : List Bool) : Nat := bits.foldl (fun n b => 2 * n + if b then 1 else 0) 0

/-- The read/write flag of a frame, bit 7 of its command byte: 1 for a write. -/
def frameWrites (bits : List Bool) : Bool := bits.getD 0 false

/-- The register number of a frame, bits 3 to 0 of its command byte; bits 6 to 4 are ignored. -/
def frameRegister (bits : List Bool) : BitVec 4 := BitVec.ofNat 4 (bitsValue (bits.take 8))

/-- The 32 data bits of a frame. -/
def frameData (bits : List Bool) : BitVec 32 := BitVec.ofNat 32 (bitsValue ((bits.drop 8).take 32))

/-- The command a complete write frame is, by its register number and its data (R181, R182, R198). -/
def registerWrite (reg : BitVec 4) (data : BitVec 32) : Instr :=
  match reg.toNat with
  | 1 => if data.getLsbD 1 then .softReset (data.getLsbD 0) else .cwEnable (data.getLsbD 0)
  | 2 => .cwBaseWrite .lo data
  | 3 => .cwBaseWrite .hi data
  | 4 => .cmdStreamsWrite .lo data
  | 5 => .cmdStreamsWrite .hi data
  | 8 => .faultWrite data
  | _ => .mgmtWriteRefused reg data

/-- A bit is driven on MG_DOUT. -/
def drive (s : State) (b : Bool) : State := { s with mgmt.dout := s.mgmt.dout ++ [b] }

/-- Select is asserted: a frame begins. -/
def selectFrame (s : State) : State := { s with mgmt.frame := some ⟨[], 0⟩, mgmt.dout := [] }

/-- Select is deasserted: the frame, if it is not complete, is abandoned. -/
def endFrame (s : State) : State := { s with mgmt.frame := none }

/-- The value of the frame's register if the bits are the command byte of a read, taken with its last bit (R180, R185). -/
def captureAt (s : State) (f : Frame) (bits : List Bool) : BitVec 32 :=
  if bits.length = 8 ∧ !frameWrites bits then s.mgmtRead (frameRegister bits) else f.captured

/-- One bit of the first forty: it is received, and from the ninth on a bit of the captured value is driven, most significant
first. -/
def shiftBit (s : State) (f : Frame) (b : Bool) : State :=
  let bits := f.bits ++ [b]
  let t := { s with mgmt.frame := some ⟨bits, captureAt s f bits⟩ }
  if 8 ≤ f.bits.length then drive t (f.captured.getLsbD (39 - f.bits.length)) else t

/-- A bit is clocked: with the fortieth a write is applied, as the very next command (R180). Later bits are ignored, and data out is
driven 0 for them; without a frame nothing is received and nothing driven. -/
def clockBit (s : State) (b : Bool) : State :=
  match s.mgmt.frame with
  | none => s
  | some f =>
    if 40 ≤ f.bits.length then drive s false
    else
      let t := shiftBit s f b
      let bits := f.bits ++ [b]
      if bits.length = 40 ∧ frameWrites bits then { t with pending := registerWrite (frameRegister bits) (frameData bits) :: t.pending }
      else t

/-- The management port takes an event on its pins. While RESET is asserted no frame begins, and data out is driven 0 for each bit
clocked (R190). -/
def takeSerial (s : State) (e : SerialEvent) : State :=
  match s.resetAsserted, e with
  | false, .select => selectFrame s
  | false, .bit b => clockBit s b
  | false, .deselect => endFrame s
  | true, .select => { s with mgmt.dout := [] }
  | true, .bit _ => drive s false
  | true, .deselect => s

/-- The level on MG_DOUT, where one is given: 0 while RESET is asserted (R190), and in a frame, from the first data bit on, the bit
driven last (R180, R198). It is `none` with select deasserted (high impedance), and during the eight bits of the command byte, for which
the manual gives no level; that it is left unnamed there, and that 0 is driven under RESET whatever select is, is the model's choice
(log 32). -/
def State.dataOut (s : State) : Option Bool :=
  if s.resetAsserted then some false else s.mgmt.frame.bind (fun _ => s.mgmt.dout.getLast?)

/-- A write frame is taken whole: data out was driven 0 during its 32 data bits. -/
def writeFrame (s : State) : State := { s with mgmt.dout := List.replicate 32 false }

/-- A frame of this many bits that meets RESET asserted: it is not answered, and data out is driven 0 for each (R190). -/
def unansweredFrame (s : State) (n : Nat) : State := { s with mgmt.dout := List.replicate n false }

/-- One whole action of the management port that a frame of this many bits calls for. -/
def actFrame (s : State) (n : Nat) (f : State → State) : Host.Outcome State Fault Refusal :=
  .next (if s.resetAsserted then unansweredFrame s n else settle (f s))

/-- FAULT.MGMT_REFUSED is set (R186). -/
def refuseWrite (s : State) : State := { s with mgmt.fault.mgmtRefused := true }

/-- FRAME_ABANDONED (R180): select, the bits in the order shifted, and select deasserted before the fortieth; a list of forty or more
is no abandoned frame. -/
def abandonFrame (s : State) (bits : List Bool) : State :=
  if bits.length < 40 then endFrame (bits.foldl clockBit (selectFrame s)) else s

/-- FRAME_ABANDONED (R180). -/
def execFrameAbandoned (bits : List Bool) (s : State) : Host.Outcome State Fault Refusal :=
  actFrame s bits.length (fun s => abandonFrame s bits)

/-- MGMT_WRITE_REFUSED (R181): a register that is neither read-only nor unassigned is not this event's. -/
def execMgmtWriteRefused (reg : BitVec 4) (_data : BitVec 32) (s : State) : Host.Outcome State Fault Refusal :=
  actFrame s 40 (fun s =>
    if reg = 0 ∨ reg = 6 ∨ reg = 7 ∨ 9 ≤ reg.toNat then refuseWrite (writeFrame s) else s)

/-! ### Registers -/

/-- CW_BASE with one half replaced; the low twelve bits stay 0 and the high 16 bits of a CW_BASE_HI write are discarded (R183). -/
def storeBase (base : Addr) (half : RegHalf) (data : BitVec 32) : Addr :=
  match half with
  | .lo => (base.extractLsb' 32 16) ++ ((data.extractLsb' 12 20) ++ 0#12)
  | .hi => (data.extractLsb' 0 16) ++ (base.extractLsb' 0 32)

/-- A write to CW_BASE_LO or CW_BASE_HI is taken while OFFLINE only (R183). -/
def writeBase (s : State) (half : RegHalf) (data : BitVec 32) : State :=
  if s.mgmt.device = .offline then { s with mgmt.cwBase := storeBase s.mgmt.cwBase half data } else refuseWrite s

/-- CW_BASE_WRITE (R183). -/
def execCwBaseWrite (half : RegHalf) (data : BitVec 32) (s : State) : Host.Outcome State Fault Refusal :=
  actFrame s 40 (fun s => writeBase (writeFrame s) half data)

/-- The membership of 32 streams is replaced (R184). -/
def storeStreams (set : BitVec 64) (half : RegHalf) (data : BitVec 32) : BitVec 64 :=
  match half with
  | .lo => (set.extractLsb' 32 32) ++ data
  | .hi => data ++ (set.extractLsb' 0 32)

/-- A write to CMD_STREAMS_LO or CMD_STREAMS_HI (R184). -/
def writeStreams (s : State) (half : RegHalf) (data : BitVec 32) : State :=
  { s with mgmt.cmdStreams := storeStreams s.mgmt.cmdStreams half data }

/-- CMD_STREAMS_WRITE (R184). -/
def execCmdStreamsWrite (half : RegHalf) (data : BitVec 32) (s : State) : Host.Outcome State Fault Refusal :=
  actFrame s 40 (fun s => writeStreams (writeFrame s) half data)

/-- Each fault bit written as 1 is cleared (R186, R198). -/
def FaultBits.clear (f : FaultBits) (data : BitVec 32) : FaultBits :=
  ⟨f.noticePath && !data.getLsbD 0, f.statusPath && !data.getLsbD 1, f.mgmtRefused && !data.getLsbD 2⟩

/-- A write to FAULT (R186). -/
def writeFault (s : State) (data : BitVec 32) : State := { s with mgmt.fault := s.mgmt.fault.clear data }

/-- FAULT_WRITE (R186). -/
def execFaultWrite (data : BitVec 32) (s : State) : Host.Outcome State Fault Refusal :=
  actFrame s 40 (fun s => writeFault (writeFrame s) data)

/-! ### CONTROL.CW_ENABLE (R182, R188) -/

/-- The notice configuration is cleared, the buffer and the counts are kept, and a ring write in flight stays in flight (R178). -/
def clearRing (u : NoticeUnit) : NoticeUnit :=
  { NoticeUnit.reset with
    buffer := u.buffer, nextSeq := u.nextSeq, inFlight := u.inFlight, overrunCount := u.overrunCount,
    overrunTotal := u.overrunTotal }

/-- The device enters LISTENING, and a status block is requested (R188, R156). -/
def enterListening (s : State) : State := askStatus { s with mgmt.cwEnable := true, mgmt.device := .listening }

/-- The device leaves LISTENING for OFFLINE (R188): the windows, the notice configuration and the command queue are cleared, and
the status writer finishes the line it has out and begins nothing further (R161). -/
def leaveListening (s : State) : State :=
  { s with
    mgmt.cwEnable := false
    mgmt.device := .offline
    windows := windowsReset
    notice := clearRing s.notice
    cmd.queue := []
    status.inFlight := s.status.inFlight.map (fun w => { w with stopping := true })
    status.updatePending := false
    status.requests := 0 }

/-- A CONTROL write with SOFT_RESET 0 (R182). -/
def writeControl (s : State) (enable : Bool) : State :=
  match s.mgmt.device, enable with
  | .offline, false => s
  | .offline, true => enterListening s
  | .listening, true => s
  | .listening, false => leaveListening s
  | .running, true => s
  | .running, false => refuseWrite s

/-- CW_ENABLE (R182). -/
def execCwEnable (enable : Bool) (s : State) : Host.Outcome State Fault Refusal :=
  actFrame s 40 (fun s => writeControl (writeFrame s) enable)

/-! ### Soft reset (R191) -/

/-- A slot's trigger that has not been forwarded is answered RETRY (R63). -/
def retryTrigger (s : State) (i : Fin 8) : State :=
  match s.capture.slot? i with
  | none => s
  | some c =>
    match c.trigger, c.phase with
    | some r, .readingOld | some r, .writingRecord => respond s .write r.id .retry []
    | some _, .forwarding | none, _ => s

/-- A held entry is answered RETRY (R99). -/
def retryEntry (s : State) (e : HeldEntry) : State := respond s e.request.kind e.request.id .retry []

/-- What becomes of a request's origin at a soft reset: forwarded requests keep their claim, a trigger already handed to the FORWARD
class is answered as any forwarded request (R63), and device-originated work ends (R141). -/
def Origin.afterSoftReset (c : Capture) : Origin → Origin
  | .forwarded id kind dropped byCapture => .forwarded id kind dropped byCapture
  | .trigger i =>
    match (c.slot? i).bind (fun x => x.trigger) with
    | some r => .forwarded r.id .write false true
    | none => .forwarded ⟨0, 0⟩ .write true true
  | .oldRead _ _ | .record _ | .void _ | .marker _ | .restoreRead _ | .writeBack | .notice | .status | .abandoned => .abandoned

/-- The arbiter keeps the FORWARD class, empties the others, and serves FORWARD first (R141, R137). -/
def DLink.softReset (d : DLink) (c : Capture) : DLink :=
  { d with
    forward := d.forward.map (fun q => { q with origin := q.origin.afterSoftReset c })
    capture := []
    restore := []
    report := []
    lastServed := .report
    inUse := d.inUse.map (fun u => { u with origin := u.origin.afterSoftReset c }) }

/-- Every block takes the soft reset (R191): the management registers are kept, and everything else returns to its reset value. -/
def softResetBlocks (s : State) : State :=
  let t := s.hold.entries.foldl retryEntry (allSlots.foldl retryTrigger s)
  { t with
    mgmt.device := if s.mgmt.cwEnable then .listening else .offline
    mgmt.time := 0
    windows := windowsReset
    epoch := EpochController.reset
    journal := Journal.reset
    capture := Capture.reset
    hold := Hold.reset
    restore := Restore.reset
    dlink := t.dlink.softReset s.capture
    cmd := CommandUnit.reset
    status := StatusWriter.reset
    notice := NoticeUnit.reset }

/-- A CONTROL write with SOFT_RESET 1: CW_ENABLE is stored, then the soft reset is taken; a device left LISTENING requests a status
block (R182, R191). -/
def softReset (s : State) (enable : Bool) : State :=
  let t := softResetBlocks { s with mgmt.cwEnable := enable }
  if enable then askStatus t else t

/-- SOFT_RESET (R191). -/
def execSoftReset (enable : Bool) (s : State) : Host.Outcome State Fault Refusal :=
  actFrame s 40 (fun s => softReset (writeFrame s) enable)

/-! ### Power-on reset (R190) -/

/-- RESET is asserted: every block stands at its power-on values and is held there. What the ports have put on the links stays
recorded, and the commands and pin events waiting are the sender's. -/
def powerOn (s : State) : State :=
  { State.reset with
    ulink := { ULink.reset with returned := s.ulink.returned }
    dlink := { DLink.reset with issued := s.dlink.issued }
    resetAsserted := true
    pending := s.pending
    serial := s.serial }

/-- POWER_ON_RESET (R190). -/
def execPowerOnReset (s : State) : Host.Outcome State Fault Refusal := .next (powerOn s)

/-- RESET_DEASSERTED (R190): device time counts from here. -/
def execResetDeasserted (s : State) : Host.Outcome State Fault Refusal := .next { s with resetAsserted := false }

/-- The link reset indication the part signals on the U-link and on the D-link while RESET is asserted (R190). -/
def State.linkResetOut (s : State) : Bool := s.resetAsserted

end Sys2Proof.Machine
end

