-- ==== Sys2Proof/Machine/ReportUnit.lean ====
section
/-! DEFINITION. The notice unit's and the status writer's events (08_the_command_window.md R156 to R161,
09_notices_and_the_attention_line.md R169 to R178). -/

namespace Sys2Proof.Machine

/-- NOTICE_OVERRUN is generated when the buffer has gained room and losses are unreported (R167). -/
def reportOverrun (s : State) : State :=
  if s.notice.overrunCount = 0 then s
  else
    let n := s.notice.overrunCount
    post { s with notice.overrunCount := 0 } (.noticeOverrun n)

/-- The flush timer starts when the unacknowledged count has just gone from 0 to 1 (R175). -/
def startFlush (u : NoticeUnit) : NoticeUnit :=
  if u.unacked = 1 ∧ u.tFlush ≠ 0 then { u with flush := .running u.tFlush } else u

/-- The notice unit after its oldest notice has been written at a position of the configured ring (R169 steps 1 to 4). -/
def noticeWritten (u : NoticeUnit) (p : Seq) : NoticeUnit :=
  let urgent := (u.buffer.head?.any (fun n => u.isUrgent n.body))
  startFlush { u with
    buffer := u.buffer.drop 1
    inFlight := none
    writePos := u.writePos + 1
    lastUrgent := if urgent then some p else u.lastUrgent }

/-- The answer to a notice ring write (R169, R176, R178). -/
def takeNoticeWrite (t : State) (st : DStatus) : State :=
  match t.notice.inFlight, st with
  | none, _ => t
  | some p, .ok =>
    if t.notice.configured then
      updateAttn (tryRingWrite (reportOverrun { t with notice := noticeWritten t.notice p }))
    else
      reportOverrun { t with notice.buffer := t.notice.buffer.drop 1, notice.inFlight := none }
  | some _, .error =>
    if t.notice.configured then
      updateAttn { t with notice.inFlight := none, notice.pathStopped := true, mgmt.fault.noticePath := true }
    else { t with notice.inFlight := none, mgmt.fault.noticePath := true }

/-- NOTICE_WRITE_ANSWER (R169). -/
def execNoticeWriteAnswer (id : Ident) (st : DStatus) (s : State) : Host.Outcome State Fault Refusal :=
  act s (fun s => takeAnswer s id (fun o t =>
    match o with
    | .notice => some (takeNoticeWrite t st)
    | .forwarded _ _ _ _ | .trigger _ | .oldRead _ _ | .record _ | .void _ | .marker _ | .restoreRead _ | .writeBack | .status
    | .abandoned => none))

/-- The flush timer has run out (R175). -/
def takeFlushExpiry (s : State) : State :=
  if s.notice.flush = .running 0 then updateAttn { s with notice.flush := .expired } else s

/-- FLUSH_EXPIRY (R175). -/
def execFlushExpiry (s : State) : Host.Outcome State Fault Refusal := act s takeFlushExpiry

/-- The line after a line of a status block. -/
def nextLine (k : Fin 4) : Fin 4 := ⟨(k.val + 1) % 4, Nat.mod_lt _ (by decide)⟩

/-- The answer to a status line write: the next line is made ready, or the write ends (R158, R159, R161). -/
def takeStatusLine (t : State) (st : DStatus) : State :=
  match t.status.inFlight, st with
  | none, _ => t
  | some w, .ok =>
    if w.stopping ∨ w.line = 3 then endStatus t
    else
      let v := { w with line := nextLine w.line }
      readyStatusLine { t with status.inFlight := some v } v
  | some _, .error => endStatus { t with mgmt.fault.statusPath := true }

/-- STATUS_LINE_ANSWER (R158). -/
def execStatusLineAnswer (id : Ident) (st : DStatus) (s : State) : Host.Outcome State Fault Refusal :=
  act s (fun s => takeAnswer s id (fun o t =>
    match o with
    | .status => some (takeStatusLine t st)
    | .forwarded _ _ _ _ | .trigger _ | .oldRead _ _ | .record _ | .void _ | .marker _ | .restoreRead _ | .writeBack | .notice
    | .abandoned => none))

/-- The status writer takes an update request (R156): requests are taken only while the device is LISTENING or RUNNING. -/
def takeStatusRequest (s : State) : State :=
  if s.status.requests = 0 ∨ s.mgmt.device = .offline then s
  else
    let t := { s with status.requests := s.status.requests - 1 }
    if t.status.inFlight.isSome then { t with status.updatePending := true } else beginStatus t

/-- STATUS_UPDATE_REQUEST (R156). -/
def execStatusUpdateRequest (s : State) : Host.Outcome State Fault Refusal := act s takeStatusRequest

end Sys2Proof.Machine
end

