-- ==== Sys2Proof/Machine/RestoreUnit.lean ====
section
/-! DEFINITION. The restore engine's events, and the epoch controller's taking of its reports (06_rollback.md). -/

namespace Sys2Proof.Machine

/-- One answer to a record read: its line is stored, or its error kept; under a pending abort both are discarded (R109, R119). -/
def Restore.takeRead (r : Restore) (k : Fin 5) (st : DStatus) (data : Line) : Restore :=
  if r.abortPending then { r with awaited := r.awaited - 1 }
  else match st with
    | .ok => { r with hand := r.hand.set k.val (some data) k.isLt, awaited := r.awaited - 1 }
    | .error => { r with errorSeen := true, awaited := r.awaited - 1 }

/-- The restore engine takes the answer to a record read; it acts at the fifth (R109). Under a pending abort it stops there
(R119). -/
def takeRestoreRead (t : State) (k : Fin 5) (st : DStatus) (data : Line) : State :=
  let u := { t with restore := t.restore.takeRead k st data }
  if t.restore.phase ≠ .reading then t
  else if u.restore.awaited ≠ 0 then u
  else if u.restore.abortPending then reportRestore { u with restore.phase := .idle } .stop
  else if u.restore.errorSeen then reportRestore u (.fault .readError)
  else judgeRecord u

/-- RESTORE_READ_ANSWER (R109). -/
def execRestoreReadAnswer (id : Ident) (st : DStatus) (data : Line) (s : State) : Host.Outcome State Fault Refusal :=
  act s (fun s => takeAnswer s id (fun o t =>
    match o with
    | .restoreRead k => some (takeRestoreRead t k st data)
    | .forwarded _ _ _ _ | .trigger _ | .oldRead _ _ | .record _ | .void _ | .marker _ | .writeBack | .notice | .status
    | .abandoned => none))

/-- The address a record in hand is written back to. -/
def writeBackAddr (s : State) : Addr := headerGranuleAddr ((s.restore.hand[0]).getD zeroLine)

/-- The four write-backs of the record in hand (R111). -/
def writeBacks (s : State) : List DRequest :=
  let image := (s.restore.hand.toList.drop 1).map (fun l => l.getD zeroLine)
  granuleLines.map (fun k =>
    writeLine (writeBackAddr s + BitVec.ofNat 48 (64 * k.val)) (image.getD k.val zeroLine) .writeBack)

/-- The write-backs are issued once no request to the granule that the capture unit forwarded is waiting (R111). -/
def issueWriteBacks (s : State) : State :=
  if s.restore.phase = .writingBack ∧ !s.restore.issued ∧ !s.dlink.requestWaiting (granuleOf (writeBackAddr s)) then
    readyRestore { s with restore.issued := true } (writeBacks s)
  else s

/-- WRITE_BACK_ISSUE (R111). -/
def execWriteBackIssue (s : State) : Host.Outcome State Fault Refusal := act s issueWriteBacks

/-- The restore engine takes the answer to a write-back; it acts at the fourth (R111, R119). -/
def takeWriteBack (t : State) (st : DStatus) : State :=
  let u := { t with restore.awaited := t.restore.awaited - 1, restore.errorSeen := t.restore.errorSeen || st == .error }
  if t.restore.phase ≠ .writingBack then t
  else if u.restore.awaited ≠ 0 then u
  else if u.restore.errorSeen then reportRestore u (.fault .writeError)
  else finishRecord { u with restore.applied := u.restore.applied + 1 }

/-- WRITE_BACK_ANSWER (R111). -/
def execWriteBackAnswer (id : Ident) (st : DStatus) (s : State) : Host.Outcome State Fault Refusal :=
  act s (fun s => takeAnswer s id (fun o t =>
    match o with
    | .writeBack => some (takeWriteBack t st)
    | .forwarded _ _ _ _ | .trigger _ | .oldRead _ _ | .record _ | .void _ | .marker _ | .restoreRead _ | .notice | .status
    | .abandoned => none))

/-- The end of the walk is taken (R114). -/
def takeWalkEnd (s : State) : State :=
  if s.restore.report = some .walkEnd then
    let t := { s with restore.report := none }
    if t.epoch.engine = .restoring then completeRollback t else t
  else s

/-- WALK_END (R114). -/
def execWalkEnd (s : State) : Host.Outcome State Fault Refusal := act s takeWalkEnd

/-- A restore fault is taken: RESTORE_FAULT, then the break with its EPOCH_BROKEN (R115). -/
def restoreFaultEffect (s : State) (reason : RestoreReason) : State :=
  let t := { s with restore.phase := .idle }
  enterBroken (post t (.restoreFault reason t.restore.cursor (t.epoch.target.getD 0) t.restore.applied)) .restoreFault

/-- The epoch controller takes the restore engine's fault. -/
def takeRestoreFault (s : State) : State :=
  match s.restore.report with
  | some (.fault reason) =>
    let t := { s with restore.report := none }
    if t.epoch.engine = .restoring then restoreFaultEffect t reason else t
  | some .walkEnd | some .stop | none => s

/-- RESTORE_FAULT_TAKEN (R115). -/
def execRestoreFaultTaken (s : State) : Host.Outcome State Fault Refusal := act s takeRestoreFault

/-- The stop that follows an abort is taken (R119). -/
def takeRestoreStop (s : State) : State :=
  if s.restore.report = some .stop then
    let t := { s with restore.report := none }
    if t.epoch.engine = .restoring then enterBroken t .aborted else t
  else s

/-- RESTORE_STOP (R119). -/
def execRestoreStop (s : State) : Host.Outcome State Fault Refusal := act s takeRestoreStop

end Sys2Proof.Machine
end

