-- ==== Sys2Proof/Machine/Dispatch.lean ====
section
/-! DEFINITION. The meaning of each command: one arm per constructor. -/

namespace Sys2Proof.Machine

def exec (i : Instr) (s : State) : Host.Outcome State Fault Refusal :=
  match i with
  | .upstreamRequest r => Sys2Proof.Machine.execUpstreamRequest r s
  | .allocationReport => Sys2Proof.Machine.execAllocationReport s
  | .upstreamLinkReset => Sys2Proof.Machine.execUpstreamLinkReset s
  | .arbiterIssue want => Sys2Proof.Machine.execArbiterIssue want s
  | .captureReadsIssue slot => Sys2Proof.Machine.execCaptureReadsIssue slot s
  | .forwardResponse id st data => Sys2Proof.Machine.execForwardResponse id st data s
  | .oldImageReadAnswer id st data => Sys2Proof.Machine.execOldImageReadAnswer id st data s
  | .recordWriteAnswer id st => Sys2Proof.Machine.execRecordWriteAnswer id st s
  | .voidWriteAnswer id st => Sys2Proof.Machine.execVoidWriteAnswer id st s
  | .triggerResponse id st => Sys2Proof.Machine.execTriggerResponse id st s
  | .markerWriteAnswer id st => Sys2Proof.Machine.execMarkerWriteAnswer id st s
  | .frontierAdvanceReport => Sys2Proof.Machine.execFrontierAdvanceReport s
  | .restoreReadAnswer id st data => Sys2Proof.Machine.execRestoreReadAnswer id st data s
  | .writeBackIssue => Sys2Proof.Machine.execWriteBackIssue s
  | .writeBackAnswer id st => Sys2Proof.Machine.execWriteBackAnswer id st s
  | .walkEnd => Sys2Proof.Machine.execWalkEnd s
  | .restoreFaultTaken => Sys2Proof.Machine.execRestoreFaultTaken s
  | .restoreStop => Sys2Proof.Machine.execRestoreStop s
  | .noticeWriteAnswer id st => Sys2Proof.Machine.execNoticeWriteAnswer id st s
  | .statusLineAnswer id st => Sys2Proof.Machine.execStatusLineAnswer id st s
  | .statusUpdateRequest => Sys2Proof.Machine.execStatusUpdateRequest s
  | .dlinkStaleResponse id st data => Sys2Proof.Machine.execDlinkStaleResponse id st data s
  | .reevaluationPass => Sys2Proof.Machine.execReevaluationPass s
  | .holdExpiry id => Sys2Proof.Machine.execHoldExpiry id s
  | .exhaustionReport => Sys2Proof.Machine.execExhaustionReport s
  | .quietExpiry => Sys2Proof.Machine.execQuietExpiry s
  | .flushExpiry => Sys2Proof.Machine.execFlushExpiry s
  | .windowSet => Sys2Proof.Machine.execWindowSet s
  | .journalSet => Sys2Proof.Machine.execJournalSet s
  | .journalClear => Sys2Proof.Machine.execJournalClear s
  | .journalRelease => Sys2Proof.Machine.execJournalRelease s
  | .epochCommit => Sys2Proof.Machine.execEpochCommit s
  | .epochRollback => Sys2Proof.Machine.execEpochRollback s
  | .rollbackAbort => Sys2Proof.Machine.execRollbackAbort s
  | .epochResume => Sys2Proof.Machine.execEpochResume s
  | .noticeSet => Sys2Proof.Machine.execNoticeSet s
  | .noticeAck => Sys2Proof.Machine.execNoticeAck s
  | .timingSet lwmFirst => Sys2Proof.Machine.execTimingSet lwmFirst s
  | .statusSnapshot => Sys2Proof.Machine.execStatusSnapshot s
  | .badOpcode => Sys2Proof.Machine.execBadOpcode s
  | .cwEnable enable => Sys2Proof.Machine.execCwEnable enable s
  | .softReset enable => Sys2Proof.Machine.execSoftReset enable s
  | .cwBaseWrite half data => Sys2Proof.Machine.execCwBaseWrite half data s
  | .cmdStreamsWrite half data => Sys2Proof.Machine.execCmdStreamsWrite half data s
  | .faultWrite data => Sys2Proof.Machine.execFaultWrite data s
  | .mgmtWriteRefused reg data => Sys2Proof.Machine.execMgmtWriteRefused reg data s
  | .frameAbandoned bits => Sys2Proof.Machine.execFrameAbandoned bits s
  | .powerOnReset => Sys2Proof.Machine.execPowerOnReset s
  | .resetDeasserted => Sys2Proof.Machine.execResetDeasserted s

end Sys2Proof.Machine
end

