-- ==== Sys2Proof/Machine/TimerUnit.lean ====
section
/-! DEFINITION. The timer unit: one microsecond of device time, and the expiries that are due (00_scope.md, the block table; R189,
R92, R14, R175). -/

namespace Sys2Proof.Machine

/-- The quiet timer runs down; at 0 it has run out (R13). -/
def QuietTimer.tick : QuietTimer → QuietTimer
  | .stopped => .stopped
  | .running n => .running (n - 1)

/-- The flush timer runs down; at 0 it has run out (R175). -/
def FlushTimer.tick : FlushTimer → FlushTimer
  | .stopped => .stopped
  | .running n => .running (n - 1)
  | .expired => .expired

/-- The expiries due, as the events the timer unit delivers: of held entries oldest first, then of the quiet and flush timers. -/
def dueExpiries (s : State) : List Instr :=
  (s.hold.entries.filter (fun e => s.expiryDue e)).map (fun e => Instr.holdExpiry e.request.id)
    ++ (if s.epoch.quiet = .running 0 then [Instr.quietExpiry] else [])
    ++ (if s.notice.flush = .running 0 then [Instr.flushExpiry] else [])

/-- Device time rises by one and the timers run down. -/
def elapse (s : State) : State :=
  { s with mgmt.time := s.mgmt.time + 1, epoch.quiet := s.epoch.quiet.tick, notice.flush := s.notice.flush.tick }

/-- One microsecond passes and the expiries then due are put on the queue; while RESET is asserted nothing moves (R190). -/
def tick (s : State) : State :=
  if s.resetAsserted then s
  else
    let t := elapse s
    { t with pending := t.pending ++ dueExpiries t }

end Sys2Proof.Machine
end

