-- ==== Sys2Proof/Safety.lean ====
section
/-! DEFINITION. What claims about the part are stated with: a state between two actions, notices handed over, the low-water test,
the arbiter's cyclic order, a pass of re-evaluation, the end of a drain, and the invariants. -/

namespace Sys2Proof.Machine

/-- RESET is not asserted and no action is under way (R1, R190). -/
def State.atRest (s : State) : Prop := s.resetAsserted = false ∧ s.status.asked = false

/-- The notice unit after one notice with its epoch item is handed to it, but for the ring write this may begin (R165, R166). -/
def handOver (time : BitVec 32) (u : NoticeUnit) (n : NoticeBody × EpochNo) : NoticeUnit :=
  if u.buffer.length < 16 then
    { u with buffer := u.buffer ++ [⟨n.1, u.nextSeq, time, n.2⟩], nextSeq := u.nextSeq + 1 }
  else
    { u with overrunCount := satSucc u.overrunCount, overrunTotal := satSucc u.overrunTotal }

/-- Handing over these notices begins a ring write: there is one, the buffer has room for it, and the ring is ready (R165, R169). -/
def NoticeUnit.beginsWrite (u : NoticeUnit) (ns : List (NoticeBody × EpochNo)) : Bool :=
  !ns.isEmpty && decide (u.buffer.length < 16) && u.ringReady

/-- The notice unit and the REPORT class of `t` are those of `s` after these notices are handed over in this order, the oldest
notice's ring write being begun if the ring is ready for it. -/
def Handed (s t : State) (ns : List (NoticeBody × EpochNo)) : Prop :=
  let u := ns.foldl (handOver s.mgmt.time) s.notice
  t.notice = { u with inFlight := if s.notice.beginsWrite ns then some s.notice.writePos else s.notice.inFlight } ∧
  t.dlink.report = s.dlink.report ++
    if s.notice.beginsWrite ns then (u.buffer.take 1).map (fun n => noticeWrite s.notice n s.notice.writePos) else []

/-- Low-water armed after the low-water test (R81). -/
def Journal.armedAfter (j : Journal) : Bool := decide (j.lwm = 0 ∨ j.lwm < j.free)

/-- The notices the low-water test posts (R81). -/
def Journal.lowNotices (j : Journal) (epoch : EpochNo) : List (NoticeBody × EpochNo) :=
  if j.lwm ≠ 0 ∧ j.free ≤ j.lwm ∧ j.armed = true then
    [(.journalLow j.free j.lwm j.head j.frontier j.release, epoch)]
  else []

/-- How many bits the management frame has that a command is, if it is one (R180). -/
def frameBits : Instr → Option Nat
  | .cwEnable _ | .softReset _ | .cwBaseWrite _ _ | .cmdStreamsWrite _ _ | .faultWrite _ | .mgmtWriteRefused _ _ => some 40
  | .frameAbandoned bits => some bits.length
  | _ => none

/-- The class after a class in the cyclic order FORWARD, CAPTURE, RESTORE, REPORT (R137). -/
def TrafficClass.next : TrafficClass → TrafficClass
  | .forward => .capture
  | .capture => .restore
  | .restore => .report
  | .report => .forward

/-- The journal unit after the completion report of a sequence (R71, R72): at the frontier it moves the frontier up over that
sequence and every completed one that follows without a gap, and elsewhere it adds the sequence to the completed set. -/
def Completed (q : Seq) (j k : Journal) : Prop :=
  if q = j.frontier then
    ∃ n : Nat, (∀ i < n, q + 1 + BitVec.ofNat 32 i ∈ j.completed) ∧ q + 1 + BitVec.ofNat 32 n ∉ k.completed ∧
      k = { j with frontier := q + 1 + BitVec.ofNat 32 n,
                   completed := j.completed.filter (fun x => decide (∀ i < n, x ≠ q + 1 + BitVec.ofNat 32 i)) }
  else k = { j with completed := j.completed ++ [q] }

/-- A new epoch's number is the current one plus one, stepped past 0 and past the numbers taken (R5). -/
def FreshNumber (current number : EpochNo) (taken : List IndexEntry) : Prop :=
  number ≠ 0 ∧ (∀ x ∈ taken, x.number ≠ number) ∧
    ∃ n : Nat, number = current + 1 + BitVec.ofNat 32 n ∧
      ∀ i < n, current + 1 + BitVec.ofNat 32 i = 0 ∨ ∃ x ∈ taken, x.number = current + 1 + BitVec.ofNat 32 i

/-- The state after an accepted commit with no allocation report outstanding, but for the notice of the low-water test (R9, R11,
R70, R81, R49): the OPEN entry is CLOSING with its marker at head, a new OPEN entry follows, and the marker's five line writes are
ready. -/
def State.committed (s : State) (number : EpochNo) (origin : MarkOrigin) : State :=
  let marker := s.journal.head
  let reserved : Journal := { s.journal with head := marker + 1 }
  let closing (e : IndexEntry) : IndexEntry :=
    if e.state = .opened then
      { e with marker := some marker, state := .closing, recordCount := s.epoch.captureCount, origin := some origin }
    else e
  { s with
    journal := { reserved with armed := reserved.armedAfter }
    epoch := { s.epoch with
      index := s.epoch.index.map closing ++ [⟨number, marker + 1, none, .opened, 0, none⟩], current := number,
      captureCount := 0, spillCount := 0, markers := s.epoch.markers ++ [⟨marker, 5, false⟩] }
    capture.table := []
    dlink.capture := s.dlink.capture ++ ([0, 1, 2, 3, 4] : List (Fin 5)).map (fun k =>
      ⟨.write, s.journal.base + BitVec.ofNat 48 (marker.toNat % s.journal.slots * 320) + BitVec.ofNat 48 (64 * k.val), 64,
        (if k = 0 then markHeader marker s.epoch.current s.epoch.captureCount s.epoch.spillCount origin else zeroLine).toList,
        List.replicate 64 true, .marker marker⟩) }

/-- `t` is `s` after a write is given a capture slot and the journal slot at head (R51, R48, R70, R81). Its report to the epoch
controller waits to be taken (R7; log 5). -/
def Allocated (s t : State) (r : Request) (w : Fin 16) : Prop :=
  let spilled := decide (2048 ≤ s.capture.table.length)
  let reserved : Journal := { s.journal with head := s.journal.head + 1 }
  ∃ i : Fin 8,
    t = { s with epoch.allocReports := s.epoch.allocReports ++ [⟨s.epoch.current, spilled⟩],
                 journal := { reserved with armed := reserved.armedAfter },
                 capture.table := (if spilled then s.capture.table else s.capture.table ++ [granuleOf r.addr]),
                 capture.slots := t.capture.slots, notice := t.notice, dlink.report := t.dlink.report } ∧
    s.capture.slots[i] = none ∧
    t.capture.slots[i] = some
      { granule := granuleOf r.addr, epoch := s.epoch.current, sequence := s.journal.head, window := w, spilled := spilled,
        trigger := some r, stream := r.id.stream, kind := .preImage, phase := .readingOld, image := Vector.replicate 4 none,
        awaited := 4, errorSeen := false, readsIssued := false } ∧
    (∀ j : Fin 8, j ≠ i → t.capture.slots[j] = s.capture.slots[j]) ∧
    Handed s t (reserved.lowNotices s.epoch.current)

/-! ### A pass of re-evaluation -/

/-- One entry of a pass is judged (R89, R90, R42 to R45, R98): `kept` are the older entries that stay, and `kept'` those that stay after
it. In CAPTURING an exhausted entry is passed over. -/
def Judged (s : State) (kept : List HeldEntry) (e : HeldEntry) (t : State) (kept' : List HeldEntry) : Prop :=
  let r := e.request
  let g := granuleOf r.addr
  let busy := ∃ (i : Fin 8) (c : CaptureSlot), s.capture.slots[i] = some c ∧ c.granule = g
  let capturing := s.epoch.engine = .capturing
  let stays (cause : HoldCause) : Prop := t = s ∧ kept' = kept ++ [{ e with cause := cause }]
  let goes : Prop := kept' = kept ∧ t = { s with dlink.forward := s.dlink.forward ++
    [⟨r.kind, r.addr, r.length, r.data, r.mask, .forwarded r.id r.kind false true⟩] }
  let captured : Prop := capturing ∧ r.kind = .write ∧ g ∉ s.capture.table
  let slotFree := ∃ i : Fin 8, s.capture.slots[i] = none
  let room := (s.journal.head - s.journal.release).toNat < s.journal.slots
  let judged : Prop := ¬ (capturing ∧ e.exhausted = true)
  let ordered : Prop := busy ∨ ∃ k ∈ kept, granuleOf k.request.addr = g
  (¬ judged → t = s ∧ kept' = kept ++ [e]) ∧
  (judged → s.epoch.engine.fenceUp = true → (busy → stays .order) ∧ (¬ busy → stays .fence)) ∧
  (judged → s.epoch.engine.fenceUp = false →
    (ordered → stays .order) ∧
    (¬ ordered → ¬ captured → goes) ∧
    (¬ ordered → captured → ¬ slotFree → stays .slotWait) ∧
    (¬ ordered → captured → slotFree → ¬ room → stays .journalFull) ∧
    (¬ ordered → captured → slotFree → room → kept' = kept ∧ Allocated s t r e.window))

/-- The entries of a pass are judged one after another, oldest first (R89). -/
def JudgedAll (s : State) (kept : List HeldEntry) (entries : List HeldEntry) (t : State) (kept' : List HeldEntry) : Prop :=
  match entries with
  | [] => t = s ∧ kept' = kept
  | e :: rest => ∃ u k, Judged s kept e u k ∧ JudgedAll u k rest t kept'

/-! ### The end of a drain -/

/-- A CLOSING entry whose marker lies below the frontier (R12). -/
def Journal.passed (j : Journal) (frontier : Seq) (e : IndexEntry) : Bool :=
  e.state == .closing && e.marker.any (fun m => decide ((m - j.release).toNat < (frontier - j.release).toNat))

/-- The entries after these frontier advances (R12). -/
def Journal.closeEntries (j : Journal) (advances : List Seq) (index : List IndexEntry) : List IndexEntry :=
  index.map (fun e => if advances.any (fun f => j.passed f e) then { e with state := .closed } else e)

/-- The notices of the entries that close at these frontier advances: advance by advance, oldest entry first (R12). -/
def Journal.closeNotices (j : Journal) (current : EpochNo) (index : List IndexEntry) : List Seq → List (NoticeBody × EpochNo)
  | [] => []
  | f :: rest =>
    (index.filter (j.passed f)).filterMap (fun e =>
      match e.marker, e.origin with
      | some m, some o => some (.epochCommitted e.number m e.recordCount o, current)
      | _, _ => none)
    ++ j.closeNotices current (j.closeEntries [f] index) rest

/-- `t` is what the end of a drain makes of `u`, the state after the event that ends it, in which the notices `prior` are still to be
handed over and the action's request for a status block is counted; `older` are the index entries before the target's entry `e`. The
advances reported are taken (R12, R106; log 6). With a record to walk the engine is RESTORING and the restore engine reads the record at
head − 1, down to the target's first sequence (R108, R109); with none the rollback is complete (R114, R75, R120; log 7). -/
def DrainEnded (u t : State) (prior : List (NoticeBody × EpochNo)) (older : List IndexEntry) (e : IndexEntry) : Prop :=
  let closed := u.journal.closeEntries u.epoch.advances
  let notices := prior ++ u.journal.closeNotices u.epoch.current u.epoch.index u.epoch.advances
  let cursor := u.journal.head - 1
  let cut : Journal := { u.journal with head := e.first, frontier := e.first }
  (e.first ≠ u.journal.head →
    t = { u with epoch.engine := .restoring, epoch.index := closed u.epoch.index, epoch.advances := [],
                 hold.passes := u.hold.passes + 1,
                 restore := ⟨.reading, cursor, e.first, Vector.replicate 5 none, 5, false, 0, false, false, none⟩,
                 dlink.restore := u.dlink.restore ++ ([0, 1, 2, 3, 4] : List (Fin 5)).map (fun p =>
                   ⟨.read, u.journal.base + BitVec.ofNat 48 (cursor.toNat % u.journal.slots * 320) + BitVec.ofNat 48 (64 * p.val),
                     64, [], [], .restoreRead p⟩),
                 notice := t.notice, dlink.report := t.dlink.report } ∧
    Handed u t notices) ∧
  (e.first = u.journal.head → ∃ number : EpochNo, FreshNumber u.epoch.current number older ∧
    t = { u with journal := { cut with armed := cut.armedAfter },
                 epoch := { u.epoch with
                   engine := .capturing, current := number, captureCount := 0, spillCount := 0, target := none, allocReports := [],
                   advances := [], index := closed older ++ [⟨number, e.first, none, .opened, 0, none⟩] },
                 capture.table := [], hold.passes := u.hold.passes + 2,
                 restore := { u.restore with
                   phase := .idle, cursor := e.first, floor := e.first, applied := 0, abortPending := false, report := none },
                 notice := t.notice, dlink.report := t.dlink.report } ∧
    Handed u t (notices ++ (.epochRolledBack e.number number 0, number) :: cut.lowNotices number))

/-! ### Commands -/

/-- The oldest queued command is `q`, with this opcode, and the device takes commands (R150, R155). -/
def State.offers (s : State) (q : QueuedCommand) (rest : List QueuedCommand) (opcode : Byte) : Prop :=
  s.mgmt.device ≠ .offline ∧ s.cmd.queue = q :: rest ∧ q.opcode = opcode

/-- The state after a command is taken and answered, but for its notice: the command unit's record, and one request for a status
block (R151, R156). -/
def State.answered (s : State) (q : QueuedCommand) (rest : List QueuedCommand) (r : Result) : State :=
  { s with cmd := ⟨rest, s.cmd.taken + 1, some ⟨q.tag, q.opcode, r⟩⟩, status.requests := s.status.requests + 1 }

/-- A command is refused with a result: it is answered, with its COMMAND_DONE, and changes nothing else (R151). -/
def Refused (s t : State) (q : QueuedCommand) (rest : List QueuedCommand) (r : Result) : Prop :=
  t = { s.answered q rest r with notice := t.notice, dlink.report := t.dlink.report } ∧
    Handed s t [(.commandDone q.tag q.opcode r, s.epoch.current)]

/-! ### Invariants -/

/-- The buffers and queues stay within their capacities (R85, R148, R165), a frame in progress holds at most forty bits (R180), and no
identity is used twice on a link (R128, R132). -/
def WithinCapacity (s : State) : Prop :=
  s.notice.buffer.length ≤ 16 ∧ s.cmd.queue.length ≤ 8 ∧ s.hold.entries.length ≤ 32 ∧ s.ulink.outstanding.Nodup ∧
    (s.dlink.inUse.map (fun u => u.id)).Nodup ∧ ∀ f, s.mgmt.frame = some f → f.bits.length ≤ 40

/-- The granule table is a set of at most 2,048 granules (R47), and no two busy capture slots hold the same granule (R50). -/
def CaptureSound (s : State) : Prop :=
  s.capture.table.length ≤ 2048 ∧ s.capture.table.Nodup ∧
    ∀ (i j : Fin 8) (c d : CaptureSlot),
      s.capture.slots[i] = some c → s.capture.slots[j] = some d → c.granule = d.granule → i = j

/-- The entries of the epoch index in a RUNNING device: the newest is OPEN and is the current epoch, and no other is OPEN (R5,
R6). -/
def IndexShape (e : EpochController) : Prop :=
  ∃ (older : List IndexEntry) (newest : IndexEntry),
    e.index = older ++ [newest] ∧ newest.state = .opened ∧ newest.number = e.current ∧ ∀ x ∈ older, x.state ≠ .opened

/-- The engine exists exactly while the device is RUNNING (R2). The index has at most 16 entries with distinct numbers, none of
them 0, one of them the current epoch and OPEN (R5, R6). A rollback target is stored exactly in DRAINING, RESTORING and the BROKEN
causes that allow a retry, and it names an entry of the index (R103 to R105, R4). -/
def EngineSound (s : State) : Prop :=
  (s.mgmt.device = .running ↔ s.epoch.engine ≠ .absent) ∧
  (s.epoch.engine = .absent → s.epoch.index = [] ∧ s.epoch.current = 0) ∧
  (s.epoch.engine ≠ .absent → IndexShape s.epoch) ∧
  s.epoch.index.length ≤ 16 ∧
  (s.epoch.index.map (fun e => e.number)).Nodup ∧ (0 : EpochNo) ∉ s.epoch.index.map (fun e => e.number) ∧
  s.epoch.target.isSome = s.epoch.engine.fenceUp ∧
  ∀ t, s.epoch.target = some t → t ∈ s.epoch.index.map (fun e => e.number)

/-- Two areas share no address. -/
def Apart (a b : Option Area) : Prop := ∀ x y, a = some x → b = some y → ∀ n : Nat, ¬ (x.holds n = true ∧ y.holds n = true)

/-- No address lies in more than one of the non-OFF windows, the command window, the journal area and the notice area (R26); in
OFFLINE there is no window and no ring (R25, R178). -/
def AreasDisjoint (s : State) : Prop :=
  (∀ i j : Fin 16, i ≠ j → Apart s.windows[i].area? s.windows[j].area?) ∧
  (∀ i : Fin 16, Apart s.windows[i].area? s.commandArea? ∧ Apart s.windows[i].area? s.journalArea? ∧
    Apart s.windows[i].area? s.noticeArea?) ∧
  Apart s.commandArea? s.journalArea? ∧ Apart s.commandArea? s.noticeArea? ∧ Apart s.journalArea? s.noticeArea? ∧
  (s.mgmt.device = .offline → (∀ i : Fin 16, s.windows[i].mode = .off) ∧ s.notice.configured = false)

/-- While losses are unreported the buffer is full (R167), the unacknowledged count is at most M (R168), and ATTN is its condition
(R174). -/
def NoticeSound (s : State) : Prop :=
  s.notice.buffer.length ≤ 16 ∧ (s.notice.overrunCount ≠ 0 → s.notice.buffer.length = 16) ∧
  s.notice.size ≤ 65536 ∧ s.notice.unacked ≤ s.notice.size ∧
  (s.notice.configured = true → s.notice.inFlight.isSome = true → s.notice.unacked < s.notice.size) ∧
  s.notice.attn = s.notice.attnCondition

/-- CW_BASE is page-aligned (R183); tHOLD, tQUIET, LWM and tFLUSH stay in their ranges (R153, R171); a running timer has at most
its full time left (R13, R175). -/
def SettingsInRange (s : State) : Prop :=
  s.mgmt.cwBase.toNat % 4096 = 0 ∧ 1 ≤ s.hold.tHold ∧ s.hold.tHold ≤ 65535 ∧ s.epoch.tQuiet ≤ 65535 ∧
  s.journal.lwm ≤ 1048576 ∧ s.notice.tFlush ≤ 65535 ∧
  (∀ n, s.epoch.quiet = .running n → s.epoch.tQuiet ≠ 0 ∧ n ≤ s.epoch.tQuiet * 1000) ∧
  ∀ n, s.notice.flush = .running n → s.notice.tFlush ≠ 0 ∧ n ≤ s.notice.tFlush

end Sys2Proof.Machine
end

