-- ==== Sys2Proof/Certificates/Slice0/Obligations.lean ====
section
/-! DEFINITION. The statements for the provers. Each says what the part does, in terms of `exec` and `step`. -/

open Sys2Proof Sys2Proof.Machine

/-! ### Steps, time and power-on reset -/

/-- Model's form of a block: a step takes the command at the front of the queue (log 1). -/
def Obligations.StepTakesFrontCommand : Prop :=
  ∀ (s : State) (c : Instr) (rest : List Instr),
    step { s with pending := c :: rest } = exec c { s with pending := rest }

/-- Model's choice (log 2): a step with no command and no pin event waiting is one microsecond. Device time rises by one (R189), the
timers run down (R13, R175), and the expiries put on the queue are those due (R92, R14, R175). -/
def Obligations.EmptyQueueIsOneMicrosecond : Prop :=
  ∀ s : State, s.pending = [] → s.serial = [] → s.resetAsserted = false →
    ∃ t, step s = .next t ∧
      t = { s with mgmt.time := s.mgmt.time + 1, epoch.quiet := t.epoch.quiet, notice.flush := t.notice.flush,
                   pending := t.pending } ∧
      t.epoch.quiet = (match s.epoch.quiet with
        | .stopped => .stopped
        | .running n => .running (n - 1)) ∧
      t.notice.flush = (match s.notice.flush with
        | .stopped => .stopped
        | .running n => .running (n - 1)
        | .expired => .expired) ∧
      ∀ c, c ∈ t.pending ↔
        (∃ e ∈ s.hold.entries, c = .holdExpiry e.request.id ∧ s.hold.tHold ≤ (s.mgmt.time + 1 - e.arrival).toNat ∧
          ¬ (e.cause = .journalFull ∧ e.exhausted = true)) ∨
        (c = .quietExpiry ∧ t.epoch.quiet = .running 0) ∨ (c = .flushExpiry ∧ t.notice.flush = .running 0)

/-- R190: RESET asserted puts every block at its power-on values and holds it there until RESET is deasserted. No frame is answered:
data out is driven 0, for each bit of a frame that is clocked, and a frame in progress is abandoned. Which part of the links' histories
is kept, and that the other commands and pin events are taken without effect, are the model's choice (logs 3, 18 and 23). -/
def Obligations.PowerOnResetHoldsThePart : Prop :=
  ∀ s : State,
    (∃ t, exec .powerOnReset s = .next t ∧
      t = { State.reset with ulink.returned := s.ulink.returned, dlink.issued := s.dlink.issued, resetAsserted := true,
                             pending := s.pending, serial := s.serial } ∧
      t.mgmt.frame = none ∧ t.linkResetOut = true) ∧
    (∃ t, exec .resetDeasserted s = .next t ∧ t = { s with resetAsserted := false } ∧ t.linkResetOut = false) ∧
    (s.resetAsserted = true → s.dataOut = some false ∧
      (∀ c, c ≠ .powerOnReset → c ≠ .resetDeasserted → exec c s = .next (match frameBits c with
        | some n => { s with mgmt.dout := List.replicate n false }
        | none => s)) ∧
      (s.pending = [] →
        (s.serial = [] → step s = .next s) ∧
        ∀ e rest, s.serial = e :: rest → step s = .next
          { s with serial := rest, mgmt.dout := (match e with
            | .select => []
            | .bit _ => s.mgmt.dout ++ [false]
            | .deselect => s.mgmt.dout) }))

/-- R21, R25, R64, R83, R101, R125, R142, R155, R161, R177, R190: the values the manual gives after power-on reset. -/
def Obligations.ResetValues : Prop :=
  let s := State.reset
  s.mgmt.device = .offline ∧ s.mgmt.cwEnable = false ∧ s.mgmt.cwBase = 0 ∧ s.mgmt.cmdStreams = 0 ∧
  s.mgmt.fault = ⟨false, false, false⟩ ∧ s.mgmt.frame = none ∧ s.mgmt.time = 0 ∧
  (∀ i : Fin 16, s.windows[i] = ⟨.off, 0, 0, false, false⟩) ∧
  s.epoch.engine = .absent ∧ s.epoch.current = 0 ∧ s.epoch.index = [] ∧ s.epoch.captureCount = 0 ∧
  s.epoch.spillCount = 0 ∧ s.epoch.target = none ∧ s.epoch.markers = [] ∧ s.epoch.quiet = .stopped ∧ s.epoch.tQuiet = 0 ∧
  s.journal.base = 0 ∧ s.journal.slots = 0 ∧ s.journal.head = 0 ∧ s.journal.frontier = 0 ∧ s.journal.release = 0 ∧
  s.journal.completed = [] ∧ s.journal.lwm = 0 ∧ s.journal.armed = true ∧
  s.capture.table = [] ∧ (∀ i : Fin 8, s.capture.slots[i] = none) ∧ s.hold.entries = [] ∧ s.hold.tHold = 2000 ∧
  s.restore.phase = .idle ∧ s.restore.cursor = 0 ∧ s.restore.floor = 0 ∧ s.restore.applied = 0 ∧
  (∀ k : Fin 5, s.restore.hand[k] = none) ∧ s.restore.awaited = 0 ∧ s.restore.errorSeen = false ∧
  s.restore.abortPending = false ∧
  s.ulink.outstanding = [] ∧ s.dlink.forward = [] ∧ s.dlink.capture = [] ∧ s.dlink.restore = [] ∧ s.dlink.report = [] ∧
  s.dlink.inUse = [] ∧ s.dlink.lastServed = .report ∧
  s.cmd.queue = [] ∧ s.cmd.taken = 0 ∧ s.cmd.last = none ∧
  s.status.sequence = 0 ∧ s.status.inFlight = none ∧ s.status.updatePending = false ∧
  s.notice.buffer = [] ∧ s.notice.nextSeq = 0 ∧ s.notice.configured = false ∧ s.notice.base = 0 ∧ s.notice.size = 0 ∧
  s.notice.writePos = 0 ∧ s.notice.ackPos = 0 ∧ s.notice.inFlight = none ∧ s.notice.pathStopped = false ∧
  s.notice.threshold = 1 ∧ s.notice.tFlush = 100 ∧ s.notice.urgent = 0 ∧ s.notice.lastUrgent = none ∧
  s.notice.flush = .stopped ∧ s.notice.overrunCount = 0 ∧ s.notice.overrunTotal = 0 ∧ s.notice.attn = false

/-- R101, whole, with its table: after power-on reset the queue is empty with no response returned, tHOLD is 2,000 µs, the U-link is
reset, the device is OFFLINE, and the capture unit takes no request there; a soft reset empties it with RETRY answers and an upstream
link reset with none, tHOLD then 2,000 µs and unchanged; and no expiry is taken after any of the three. -/
def Obligations.ResetsEmptyTheHoldQueue : Prop :=
  ∀ s : State,
    (∃ t u, exec .powerOnReset s = .next t ∧ exec .resetDeasserted t = .next u ∧
      t.hold.entries = [] ∧ t.ulink.returned = s.ulink.returned ∧ t.hold.tHold = 2000 ∧ t.ulink.outstanding = [] ∧
      t.mgmt.device = .offline ∧ u.mgmt.device = .offline ∧
      (∀ r, ∃ v, exec (.upstreamRequest r) u = .next v ∧ v.capture = u.capture ∧ v.hold = u.hold) ∧
      ∀ id, exec (.holdExpiry id) u = .next u) ∧
    (s.atRest →
      (∀ enable, ∃ (t : State) (answers : List Response), exec (.softReset enable) s = .next t ∧ t.hold.entries = [] ∧
        t.hold.tHold = 2000 ∧ t.ulink.returned = s.ulink.returned ++ answers ∧
        (∀ e ∈ s.hold.entries, e.request.id ∈ s.ulink.outstanding → ∃ a ∈ answers, a.id = e.request.id ∧ a.status = .retry) ∧
        ∀ id, exec (.holdExpiry id) t = .next t) ∧
      ∃ t, exec .upstreamLinkReset s = .next t ∧ t.hold.entries = [] ∧ t.hold.tHold = s.hold.tHold ∧
        t.ulink.returned = s.ulink.returned ∧ ∀ id, exec (.holdExpiry id) t = .next t)

/-! ### Upstream requests -/

/-- R127, R128: a malformed request and a duplicate are answered REFUSED at the port, and nothing else happens. -/
def Obligations.MalformedOrDuplicateIsRefused : Prop :=
  ∀ (s : State) (r : Request), s.atRest →
    (¬ (1 ≤ r.length ∧ r.length ≤ 64 ∧ r.addr.toNat % 64 + r.length ≤ 64) ∨ r.id ∈ s.ulink.outstanding) →
    exec (.upstreamRequest r) s =
      .next { s with ulink.returned := s.ulink.returned ++ [⟨r.kind, r.id, .refused, []⟩] }

/-- R34, R35, R134, R127, R128: a well-formed request with a fresh identity is forwarded in OFFLINE; elsewhere a read outside the
JOURNAL windows is, and so is any request that falls in no area. -/
def Obligations.RequestOutsideTheAreasIsForwarded : Prop :=
  ∀ (s : State) (r : Request), s.atRest →
    1 ≤ r.length → r.length ≤ 64 → r.addr.toNat % 64 + r.length ≤ 64 → r.id ∉ s.ulink.outstanding →
    (s.mgmt.device = .offline ∨
      (r.kind = .read ∧ ∀ w : Fin 16, s.windows[w].mode = .journal → holdsOpt s.windows[w].area? r.addr = false) ∨
      (touches r s.noticeArea? = false ∧ (∀ w : Fin 16, holdsOpt s.windows[w].area? r.addr = false) ∧
        holdsOpt s.commandArea? r.addr = false ∧ holdsOpt s.journalArea? r.addr = false)) →
    exec (.upstreamRequest r) s = .next
      { s with ulink.outstanding := s.ulink.outstanding ++ [r.id],
               dlink.forward := s.dlink.forward ++
                 [⟨r.kind, r.addr, r.length, r.data, r.mask, .forwarded r.id r.kind false false⟩] }

/-- R38, R39, R40: a write to the notice area, the status block or the journal area is answered REFUSED and leaves nothing behind;
so is a write in a GUARD window, which with guard-report posts GUARD_HIT. -/
def Obligations.ProtectedWriteIsRefused : Prop :=
  ∀ (s : State) (r : Request), s.atRest → AreasDisjoint s →
    1 ≤ r.length → r.length ≤ 64 → r.addr.toNat % 64 + r.length ≤ 64 → r.id ∉ s.ulink.outstanding →
    s.mgmt.device ≠ .offline → r.kind = .write →
    let refused : State := { s with ulink.returned := s.ulink.returned ++ [⟨.write, r.id, .refused, []⟩] }
    (touches r s.noticeArea? = true ∨
      (holdsOpt s.commandArea? r.addr = true ∧ 60 ≤ (r.addr.toNat - s.mgmt.cwBase.toNat) / 64) ∨
      holdsOpt s.journalArea? r.addr = true → exec (.upstreamRequest r) s = .next refused) ∧
    ∀ w : Fin 16, touches r s.noticeArea? = false → s.windows[w].mode = .guard → holdsOpt s.windows[w].area? r.addr = true →
      ∃ t, exec (.upstreamRequest r) s = .next t ∧
        t = { refused with notice := t.notice, dlink.report := t.dlink.report } ∧
        Handed s t (if s.windows[w].guardReport then [(.guardHit w r.id r.addr r.length, s.epoch.current)] else [])

/-- R37, R145 to R148: a write on a command line is forwarded, and the decoder judges it by the five checks in order. -/
def Obligations.CommandLineWriteIsForwardedAndOffered : Prop :=
  ∀ (s : State) (r : Request), s.atRest → AreasDisjoint s →
    1 ≤ r.length → r.length ≤ 64 → r.addr.toNat % 64 + r.length ≤ 64 → r.id ∉ s.ulink.outstanding →
    r.kind = .write → touches r s.noticeArea? = false → holdsOpt s.commandArea? r.addr = true →
    (r.addr.toNat - s.mgmt.cwBase.toNat) / 64 ≤ 59 →
    let line := (r.addr.toNat - s.mgmt.cwBase.toNat) / 64
    let l := lineOfBytes r.data
    let permitted := s.mgmt.cmdStreams.getLsbD r.id.stream.toNat = true
    let whole := r.length = 64 ∧ ∀ b ∈ r.mask, b = true
    let queued : QueuedCommand := ⟨r.id.stream, line, l[2], BitVec.ofNat 16 (fieldAt l 4 2), l⟩
    ∃ t, exec (.upstreamRequest r) s = .next t ∧
      t = { s with ulink.outstanding := s.ulink.outstanding ++ [r.id],
                   dlink.forward := s.dlink.forward ++
                     [⟨.write, r.addr, r.length, r.data, r.mask, .forwarded r.id .write false false⟩],
                   cmd.queue := t.cmd.queue, notice := t.notice, dlink.report := t.dlink.report } ∧
      (¬ permitted → t.cmd.queue = s.cmd.queue ∧ Handed s t [(.foreignCommand r.id.stream line, s.epoch.current)]) ∧
      (permitted → ¬ (whole ∧ fieldAt l 0 2 = 0x7C1E) →
        t.cmd.queue = s.cmd.queue ∧
        Handed s t [(.commandDropped .malformed r.id.stream line none, s.epoch.current)]) ∧
      (permitted → whole → fieldAt l 0 2 = 0x7C1E → 8 ≤ s.cmd.queue.length →
        t.cmd.queue = s.cmd.queue ∧
        Handed s t
          [(.commandDropped .queueFull r.id.stream line (some (queued.tag, queued.opcode)), s.epoch.current)]) ∧
      (permitted → whole → fieldAt l 0 2 = 0x7C1E → s.cmd.queue.length < 8 →
        t.cmd.queue = s.cmd.queue ++ [queued] ∧ Handed s t [])

/-- R41 to R46, R13, R87: a request of a JOURNAL window that is not captured is held with the cause of the first check that keeps it
(or answered RETRY when the queue is full), or is forwarded. A write of a quiet-reload window restarts the quiet timer. -/
def Obligations.JournaledRequestIsHeldOrForwarded : Prop :=
  ∀ (s : State) (r : Request) (w : Fin 16), s.atRest → AreasDisjoint s →
    1 ≤ r.length → r.length ≤ 64 → r.addr.toNat % 64 + r.length ≤ 64 → r.id ∉ s.ulink.outstanding →
    s.mgmt.device = .running → touches r s.noticeArea? = false → s.windows[w].mode = .journal →
    holdsOpt s.windows[w].area? r.addr = true →
    let g := granuleOf r.addr
    let fenced := s.epoch.engine = .draining ∨ s.epoch.engine = .restoring ∨ s.epoch.engine = .broken .restoreFault ∨
      s.epoch.engine = .broken .aborted
    let uncaptured := s.epoch.engine = .broken .exhausted ∨ s.epoch.engine = .broken .journalFault
    let capturing := s.epoch.engine = .capturing
    let ordered := (∃ (i : Fin 8) (c : CaptureSlot), s.capture.slots[i] = some c ∧ c.granule = g) ∨
      ∃ e ∈ s.hold.entries, granuleOf e.request.addr = g
    let quiet := if r.kind = .write ∧ s.windows[w].quietReload = true ∧ s.epoch.tQuiet ≠ 0
      then QuietTimer.running (s.epoch.tQuiet * 1000) else s.epoch.quiet
    let held (cause : HoldCause) : State :=
      if s.hold.entries.length < 32 then
        { s with ulink.outstanding := s.ulink.outstanding ++ [r.id], epoch.quiet := quiet,
                 hold.entries := s.hold.entries ++ [⟨r, w, cause, s.mgmt.time, false⟩] }
      else
        { s with ulink.returned := s.ulink.returned ++ [⟨r.kind, r.id, .retry, []⟩], epoch.quiet := quiet }
    let forwarded : State :=
      { s with ulink.outstanding := s.ulink.outstanding ++ [r.id], epoch.quiet := quiet,
               dlink.forward := s.dlink.forward ++
                 [⟨r.kind, r.addr, r.length, r.data, r.mask, .forwarded r.id r.kind false true⟩] }
    (fenced → exec (.upstreamRequest r) s = .next (held .fence)) ∧
    (capturing ∨ uncaptured → ordered → exec (.upstreamRequest r) s = .next (held .order)) ∧
    (capturing ∨ uncaptured → ¬ ordered → r.kind = .read ∨ uncaptured ∨ g ∈ s.capture.table →
      exec (.upstreamRequest r) s = .next forwarded) ∧
    (capturing → ¬ ordered → r.kind = .write → g ∉ s.capture.table → (∀ i : Fin 8, s.capture.slots[i] ≠ none) →
      exec (.upstreamRequest r) s = .next (held .slotWait)) ∧
    (capturing → ¬ ordered → r.kind = .write → g ∉ s.capture.table → (∃ i : Fin 8, s.capture.slots[i] = none) →
      (s.journal.head - s.journal.release).toNat = s.journal.slots →
      exec (.upstreamRequest r) s = .next (held .journalFull))

/-- R42 step 5, R51, R48, R70, R81, R13: a write that misses in CAPTURING with a free capture slot and a free journal slot takes
both. Its report to the epoch controller waits to be taken (R7; log 5). -/
def Obligations.JournaledWriteIsGivenACaptureSlot : Prop :=
  ∀ (s : State) (r : Request) (w : Fin 16), s.atRest → AreasDisjoint s →
    1 ≤ r.length → r.length ≤ 64 → r.addr.toNat % 64 + r.length ≤ 64 → r.id ∉ s.ulink.outstanding →
    s.mgmt.device = .running → touches r s.noticeArea? = false → s.windows[w].mode = .journal →
    holdsOpt s.windows[w].area? r.addr = true → s.epoch.engine = .capturing → r.kind = .write →
    (∀ (i : Fin 8) (c : CaptureSlot), s.capture.slots[i] = some c → c.granule ≠ granuleOf r.addr) →
    (∀ e ∈ s.hold.entries, granuleOf e.request.addr ≠ granuleOf r.addr) → granuleOf r.addr ∉ s.capture.table →
    (∃ i : Fin 8, s.capture.slots[i] = none) → (s.journal.head - s.journal.release).toNat < s.journal.slots →
    ∃ t, exec (.upstreamRequest r) s = .next t ∧
      Allocated
        { s with ulink.outstanding := s.ulink.outstanding ++ [r.id],
                 epoch.quiet := (if s.windows[w].quietReload = true ∧ s.epoch.tQuiet ≠ 0
                   then .running (s.epoch.tQuiet * 1000) else s.epoch.quiet) }
        t r w

/-! ### Links -/

/-- R139, R140, R62, R100: an upstream link reset empties the outstanding set, marks every forwarded request dropped, discards the
held requests and makes every slot's trigger absent; everything else stays. -/
def Obligations.UpstreamLinkResetDropsRequests : Prop :=
  ∀ s : State, s.atRest →
    let dropped (o : Origin) : Origin :=
      match o with
      | .forwarded id kind _ byCapture => .forwarded id kind true byCapture
      | o => o
    ∃ t, exec .upstreamLinkReset s = .next t ∧
      t = { s with ulink.outstanding := [], hold.entries := [], capture.slots := t.capture.slots,
                   dlink.forward := s.dlink.forward.map (fun q => { q with origin := dropped q.origin }),
                   dlink.inUse := s.dlink.inUse.map (fun u => { u with origin := dropped u.origin }) } ∧
      ∀ i : Fin 8, t.capture.slots[i] = s.capture.slots[i].map (fun c => { c with trigger := none })

/-- R137, R136, R132, R143: the arbiter issues the oldest request of the first class, in cyclic order after the class served last, that
holds one, under a free identity; with nothing ready, or with no identity free, it does nothing. That a free operand `want` is the
identity taken is the model's choice (log 4). -/
def Obligations.ArbiterIssuesInCyclicOrder : Prop :=
  ∀ (s : State) (want : Ident), s.atRest →
    let after (n : Nat) : TrafficClass := Nat.repeat TrafficClass.next (n + 1) s.dlink.lastServed
    let free (id : Ident) : Prop := ∀ u ∈ s.dlink.inUse, u.id ≠ id
    ((∀ c, s.dlink.queue c = []) ∨ (∀ id, ¬ free id) → exec (.arbiterIssue want) s = .next s) ∧
    ∀ (n : Nat) (q : DRequest) (rest : List DRequest), n < 4 → (∀ m < n, s.dlink.queue (after m) = []) →
      s.dlink.queue (after n) = q :: rest → (∃ id, free id) →
      ∃ (t : State) (id : Ident), exec (.arbiterIssue want) s = .next t ∧ free id ∧ (free want → id = want) ∧
        t = { s with dlink := t.dlink } ∧
        t.dlink.queue (after n) = rest ∧ (∀ c, c ≠ after n → t.dlink.queue c = s.dlink.queue c) ∧
        t.dlink.lastServed = after n ∧ t.dlink.inUse = s.dlink.inUse ++ [⟨id, q.origin⟩] ∧
        t.dlink.issued = s.dlink.issued ++ [⟨id, q.kind, q.addr, q.length, q.data, q.mask⟩]

/-- R134, R129, R130, R139, R132, R141: the answer to a forwarded request goes back with the mapped status, or is discarded for a dropped
request, and its D-link identity is free again. A response whose identity is not in use is ignored. An answer to work that a soft reset
has ended frees its identity and does nothing else, whichever block its command names (log 13). That a READ's data is passed on whatever
its length is log 30. -/
def Obligations.ForwardedRequestIsAnswered : Prop :=
  ∀ (s : State) (id : Ident) (st : DStatus) (data : List Byte), s.atRest →
    let freed : State := { s with dlink.inUse := s.dlink.inUse.filter (fun u => u.id != id) }
    (∀ (up : Ident) (kind : ReqKind) (dropped byCapture : Bool),
      s.dlink.originOf id = some (.forwarded up kind dropped byCapture) → (dropped = false → up ∈ s.ulink.outstanding) →
      exec (.forwardResponse id st data) s = .next
        { freed with ulink := (if dropped then s.ulink
                   else ⟨s.ulink.outstanding.filter (fun i => i != up),
                     s.ulink.returned ++ [⟨kind, up, if st = .ok then .ok else .memError,
                       if kind = .read ∧ st = .ok then data else []⟩]⟩) }) ∧
    ((∀ u ∈ s.dlink.inUse, u.id ≠ id) → exec (.dlinkStaleResponse id st data) s = .next s) ∧
    (s.dlink.originOf id = some .abandoned → ∀ line : Line, ∀ c ∈
      [Instr.forwardResponse id st data, .dlinkStaleResponse id st data, .oldImageReadAnswer id st line, .recordWriteAnswer id st,
        .voidWriteAnswer id st, .triggerResponse id st, .markerWriteAnswer id st, .restoreReadAnswer id st line,
        .writeBackAnswer id st, .noticeWriteAnswer id st, .statusLineAnswer id st],
      exec c s = .next freed)

/-! ### Captures -/

/-- R133, R136, R52, R111: a slot in READING_OLD issues its four old-image reads, and the restore engine the four write-backs of the
record in hand, once no request to the granule that the capture unit forwarded waits in the FORWARD class; until then nothing is issued.
(R52 names only writes for the reads: log 29. The granule of a write-back is that of the low 48 bits of bytes 16 to 23 of the header:
log 21.) -/
def Obligations.ReadsAndWriteBacksWaitForTheGranule : Prop :=
  ∀ s : State, s.atRest →
    let waiting (g : Granule) : Prop := ∃ q ∈ s.dlink.forward, q.origin.byCaptureUnit = true ∧ granuleOf q.addr = g
    (∀ (i : Fin 8) (c : CaptureSlot), s.capture.slots[i] = some c → c.phase = .readingOld → c.readsIssued = false →
      (waiting c.granule → exec (.captureReadsIssue i) s = .next s) ∧
      (¬ waiting c.granule → ∃ t, exec (.captureReadsIssue i) s = .next t ∧
        t = { s with capture.slots := t.capture.slots,
                     dlink.capture := s.dlink.capture ++ ([0, 1, 2, 3] : List (Fin 4)).map (fun k =>
                       ⟨.read, (c.granule ++ 0#8) + BitVec.ofNat 48 (64 * k.val), 64, [], [], .oldRead i k⟩) } ∧
        t.capture.slots[i] = some { c with readsIssued := true } ∧
        ∀ j : Fin 8, j ≠ i → t.capture.slots[j] = s.capture.slots[j])) ∧
    (s.restore.phase = .writingBack → s.restore.issued = false →
      let granuleAt : Addr := BitVec.ofNat 48 (fieldAt (s.restore.hand[0].getD zeroLine) 16 8)
      (waiting (granuleOf granuleAt) → exec .writeBackIssue s = .next s) ∧
      (¬ waiting (granuleOf granuleAt) → exec .writeBackIssue s = .next
        { s with restore.issued := true,
                 dlink.restore := s.dlink.restore ++ ([(0, 1), (1, 2), (2, 3), (3, 4)] : List (Nat × Fin 5)).map (fun p =>
                   ⟨.write, granuleAt + BitVec.ofNat 48 (64 * p.1), 64, (s.restore.hand[p.2].getD zeroLine).toList,
                     List.replicate 64 true, .writeBack⟩) }))

/-- R52, R53: an answer to an old-image read is stored, or its error kept, and the fourth acts: a sound capture writes its record,
header first, at journal base + (sequence mod N) × 320. -/
def Obligations.OldImageReadIsTaken : Prop :=
  ∀ (s : State) (id : Ident) (i : Fin 8) (k : Fin 4) (c : CaptureSlot) (st : DStatus) (data : Line), s.atRest →
    s.dlink.originOf id = some (.oldRead i k) → s.capture.slots[i] = some c → c.phase = .readingOld → c.kind = .preImage →
    let image := if st = .ok then c.image.set k.val (some data) k.isLt else c.image
    let bad := c.errorSeen || st == .error
    (2 ≤ c.awaited ∨ (c.awaited = 1 ∧ bad = false)) →
    ∃ t, exec (.oldImageReadAnswer id st data) s = .next t ∧
      t = { s with dlink.inUse := s.dlink.inUse.filter (fun u => u.id != id), dlink.capture := t.dlink.capture,
                   capture.slots := t.capture.slots } ∧
      (∀ j : Fin 8, j ≠ i → t.capture.slots[j] = s.capture.slots[j]) ∧
      (2 ≤ c.awaited → t.dlink.capture = s.dlink.capture ∧
        t.capture.slots[i] = some { c with image := image, awaited := c.awaited - 1, errorSeen := bad }) ∧
      (c.awaited = 1 →
        let d : CaptureSlot := { c with image := image, phase := .writingRecord, awaited := 5, errorSeen := false }
        t.capture.slots[i] = some d ∧
        t.dlink.capture = s.dlink.capture ++ ([0, 1, 2, 3, 4] : List (Fin 5)).map (fun p =>
          ⟨.write, s.journal.base + BitVec.ofNat 48 (c.sequence.toNat % s.journal.slots * 320) + BitVec.ofNat 48 (64 * p.val), 64,
            (if p = 0 then preImageHeader d (imageCrc d.imageLines) else d.imageLines.getD (p.val - 1) zeroLine).toList,
            List.replicate 64 true, .record i⟩))

/-- R57, R58: the fourth answer with an error seen is a capture read fault: the trigger is answered CAPTURE_FAILED and dropped, the
granule leaves the table if this slot's entry of the current epoch put it there, the VOID header is written, and CAPTURE_FAULT is
posted. -/
def Obligations.CaptureReadFaultIsTaken : Prop :=
  ∀ (s : State) (id : Ident) (i : Fin 8) (k : Fin 4) (c : CaptureSlot) (st : DStatus) (data : Line), s.atRest →
    s.dlink.originOf id = some (.oldRead i k) → s.capture.slots[i] = some c → c.phase = .readingOld → c.kind = .preImage →
    c.awaited = 1 → (c.errorSeen = true ∨ st = .error) → (∀ r, c.trigger = some r → r.id ∈ s.ulink.outstanding) →
    ∃ t, exec (.oldImageReadAnswer id st data) s = .next t ∧
      t = { s with dlink.inUse := s.dlink.inUse.filter (fun u => u.id != id),
                   dlink.capture := s.dlink.capture ++
                     [⟨.write, s.journal.base + BitVec.ofNat 48 (c.sequence.toNat % s.journal.slots * 320), 64,
                       (voidHeader c).toList, List.replicate 64 true, .void i⟩],
                   dlink.report := t.dlink.report, notice := t.notice, capture.slots := t.capture.slots,
                   capture.table := (if c.spilled = false ∧ c.epoch = s.epoch.current
                     then s.capture.table.filter (fun g => g != c.granule) else s.capture.table),
                   ulink := (match c.trigger with
                     | some r => ⟨s.ulink.outstanding.filter (fun x => x != r.id),
                         s.ulink.returned ++ [⟨.write, r.id, .captureFailed, []⟩]⟩
                     | none => s.ulink) } ∧
      t.capture.slots[i] = some
        { c with trigger := none, kind := .void, phase := .writingRecord, image := Vector.replicate 4 none, awaited := 1,
                 errorSeen := false } ∧
      (∀ j : Fin 8, j ≠ i → t.capture.slots[j] = s.capture.slots[j]) ∧
      Handed s t [(.captureFault c.granule c.sequence c.epoch (c.trigger.map (fun r => r.id)), s.epoch.current)]

/-- R54, R71, R72, R62: an answer to a record write is counted; the fifth, all OK, completes the record. The trigger then becomes ready
in the FORWARD class, or, if it is absent, the slot is free and the hold queue is told. (For the last slot of a drain with an absent
trigger see `DrainEndStartsTheWalk`.) -/
def Obligations.RecordWriteIsTaken : Prop :=
  ∀ (s : State) (id : Ident) (i : Fin 8) (c : CaptureSlot) (st : DStatus), s.atRest →
    s.dlink.originOf id = some (.record i) → s.capture.slots[i] = some c → c.phase = .writingRecord → c.kind = .preImage →
    let bad := c.errorSeen || st == .error
    (2 ≤ c.awaited ∨ (c.awaited = 1 ∧ bad = false)) →
    (c.awaited = 1 → c.trigger = none → s.epoch.engine ≠ .draining ∨ ∃ j : Fin 8, j ≠ i ∧ s.capture.slots[j] ≠ none) →
    ∃ t, exec (.recordWriteAnswer id st) s = .next t ∧
      t = { s with dlink.inUse := s.dlink.inUse.filter (fun u => u.id != id), dlink.forward := t.dlink.forward,
                   journal := t.journal, epoch.advances := t.epoch.advances, capture.slots := t.capture.slots,
                   hold.passes := s.hold.passes + (if c.awaited = 1 ∧ c.trigger = none then 1 else 0) } ∧
      (∀ j : Fin 8, j ≠ i → t.capture.slots[j] = s.capture.slots[j]) ∧
      (2 ≤ c.awaited → t.dlink.forward = s.dlink.forward ∧ t.journal = s.journal ∧ t.epoch.advances = s.epoch.advances ∧
        t.capture.slots[i] = some { c with awaited := c.awaited - 1, errorSeen := bad }) ∧
      (c.awaited = 1 → Completed c.sequence s.journal t.journal ∧
        t.epoch.advances = s.epoch.advances ++ (if c.sequence = s.journal.frontier then [t.journal.frontier] else []) ∧
        (∀ r, c.trigger = some r →
          t.dlink.forward = s.dlink.forward ++ [⟨r.kind, r.addr, r.length, r.data, r.mask, .trigger i⟩] ∧
          t.capture.slots[i] = some { c with phase := .forwarding, awaited := 1, errorSeen := false }) ∧
        (c.trigger = none → t.dlink.forward = s.dlink.forward ∧ t.capture.slots[i] = none))

/-- R59, R4, R3, R62: the fifth answer with an error is a journal write fault: the sequence is not reported complete, a CAPTURING or
DRAINING engine goes BROKEN(JOURNAL_FAULT), the granule's entry is removed, and the trigger is forwarded all the same, or, if it is
absent, the slot is free and the hold queue is told. -/
def Obligations.RecordWriteFaultBreaksTheEpoch : Prop :=
  ∀ (s : State) (id : Ident) (i : Fin 8) (c : CaptureSlot) (st : DStatus), s.atRest →
    s.dlink.originOf id = some (.record i) → s.capture.slots[i] = some c → c.phase = .writingRecord → c.kind = .preImage →
    c.awaited = 1 → (c.errorSeen = true ∨ st = .error) →
    let breaks := s.epoch.engine = .capturing ∨ s.epoch.engine = .draining
    ∃ t, exec (.recordWriteAnswer id st) s = .next t ∧
      t = { s with dlink.inUse := s.dlink.inUse.filter (fun u => u.id != id),
                   dlink.forward := s.dlink.forward ++ (match c.trigger with
                     | some r => [⟨r.kind, r.addr, r.length, r.data, r.mask, .trigger i⟩]
                     | none => []),
                   dlink.report := t.dlink.report, notice := t.notice,
                   epoch.engine := (if breaks then .broken .journalFault else s.epoch.engine),
                   epoch.target := (if breaks then none else s.epoch.target),
                   hold.passes := s.hold.passes + (if breaks then 1 else 0) + (if c.trigger = none then 1 else 0),
                   status.requests := s.status.requests + (if breaks then 1 else 0),
                   capture.slots := t.capture.slots,
                   capture.table := (if c.spilled = false ∧ c.epoch = s.epoch.current
                     then s.capture.table.filter (fun g => g != c.granule) else s.capture.table) } ∧
      t.capture.slots[i] =
        (if c.trigger = none then none else some { c with phase := .forwarding, awaited := 1, errorSeen := false }) ∧
      (∀ j : Fin 8, j ≠ i → t.capture.slots[j] = s.capture.slots[j]) ∧
      Handed s t (if breaks then [(.epochBroken .journalFault s.epoch.current, s.epoch.current)] else [])

/-- R58, R55, R71, R72: a VOID write answered OK is complete and its slot is free; the hold queue is told. (While this slot was the
last thing a drain waited for, `DrainEndStartsTheWalk` says what follows.) -/
def Obligations.VoidRecordCompletes : Prop :=
  ∀ (s : State) (id : Ident) (i : Fin 8) (c : CaptureSlot), s.atRest →
    s.dlink.originOf id = some (.void i) → s.capture.slots[i] = some c → c.phase = .writingRecord → c.kind = .void →
    (s.epoch.engine ≠ .draining ∨ ∃ j : Fin 8, j ≠ i ∧ s.capture.slots[j] ≠ none) →
    ∃ t, exec (.voidWriteAnswer id .ok) s = .next t ∧
      t = { s with dlink.inUse := s.dlink.inUse.filter (fun u => u.id != id), journal := t.journal,
                   epoch.advances := s.epoch.advances ++ (if c.sequence = s.journal.frontier then [t.journal.frontier] else []),
                   hold.passes := s.hold.passes + 1, capture.slots := t.capture.slots } ∧
      Completed c.sequence s.journal t.journal ∧ t.capture.slots[i] = none ∧
      ∀ j : Fin 8, j ≠ i → t.capture.slots[j] = s.capture.slots[j]

/-- R60: a VOID write answered with an error is a journal write fault. The VOID is not complete, the frontier stops, the slot is
free, no CAPTURE_FAULT is posted, and EPOCH_BROKEN is posted only if the engine was not BROKEN yet. -/
def Obligations.VoidWriteFaultBreaksTheEpoch : Prop :=
  ∀ (s : State) (id : Ident) (i : Fin 8) (c : CaptureSlot), s.atRest →
    s.dlink.originOf id = some (.void i) → s.capture.slots[i] = some c → c.phase = .writingRecord → c.kind = .void →
    let breaks := s.epoch.engine = .capturing ∨ s.epoch.engine = .draining
    ∃ t, exec (.voidWriteAnswer id .error) s = .next t ∧
      t = { s with dlink.inUse := s.dlink.inUse.filter (fun u => u.id != id), dlink.report := t.dlink.report,
                   notice := t.notice,
                   epoch.engine := (if breaks then .broken .journalFault else s.epoch.engine),
                   epoch.target := (if breaks then none else s.epoch.target),
                   hold.passes := s.hold.passes + (if breaks then 2 else 1),
                   status.requests := s.status.requests + (if breaks then 1 else 0),
                   capture.slots := t.capture.slots } ∧
      t.capture.slots[i] = none ∧ (∀ j : Fin 8, j ≠ i → t.capture.slots[j] = s.capture.slots[j]) ∧
      Handed s t (if breaks then [(.epochBroken .journalFault s.epoch.current, s.epoch.current)] else [])

/-- R55, R134: a trigger's answer goes back to its requester, if the trigger is present, and the slot is free; record and table stay.
(For the last slot of a drain see `DrainEndStartsTheWalk`.) -/
def Obligations.TriggerResponseFreesTheSlot : Prop :=
  ∀ (s : State) (id : Ident) (i : Fin 8) (c : CaptureSlot) (st : DStatus), s.atRest →
    s.dlink.originOf id = some (.trigger i) → s.capture.slots[i] = some c → c.phase = .forwarding → c.kind = .preImage →
    (∀ r, c.trigger = some r → r.id ∈ s.ulink.outstanding) →
    (s.epoch.engine ≠ .draining ∨ s.journal.frontier ≠ s.journal.head ∨ ∃ j : Fin 8, j ≠ i ∧ s.capture.slots[j] ≠ none) →
    ∃ t, exec (.triggerResponse id st) s = .next t ∧
      t = { s with dlink.inUse := s.dlink.inUse.filter (fun u => u.id != id), hold.passes := s.hold.passes + 1,
                   capture.slots := t.capture.slots,
                   ulink := (match c.trigger with
                     | some r => ⟨s.ulink.outstanding.filter (fun x => x != r.id),
                         s.ulink.returned ++ [⟨.write, r.id, if st = .ok then .ok else .memError, []⟩]⟩
                     | none => s.ulink) } ∧
      t.capture.slots[i] = none ∧ ∀ j : Fin 8, j ≠ i → t.capture.slots[j] = s.capture.slots[j]

/-- R106, R108, R109, R114, R120: a drain ends with the event that leaves DRAINING with no busy slot and frontier at head: a trigger's
answer, a VOID write answered OK, the fifth OK of a record whose trigger is absent, the fifth OK of a marker, or a frontier advance
taken. `DrainEnded` says what follows: the walk begins, or, with no record to walk, the rollback is complete in the same action. While
frontier is not at head yet, the drain goes on. (The advances still out are taken first, log 6; the empty walk is log 7.) -/
def Obligations.DrainEndStartsTheWalk : Prop :=
  ∀ (s : State) (older newer : List IndexEntry) (e : IndexEntry), s.atRest → EngineSound s → s.epoch.engine = .draining →
    s.epoch.target = some e.number → s.epoch.index = older ++ e :: newer →
    let empty : Vector (Option CaptureSlot) 8 := Vector.replicate 8 none
    let others (i : Fin 8) : Prop := ∀ j : Fin 8, j ≠ i → s.capture.slots[j] = none
    let advanced (q : Seq) (k : Journal) : List Seq := s.epoch.advances ++ (if q = s.journal.frontier then [k.frontier] else [])
    (∀ (f : Seq) (rest : List Seq), s.epoch.advances = f :: rest → (∀ i : Fin 8, s.capture.slots[i] = none) →
      s.journal.frontier = s.journal.head →
      ∃ t, exec .frontierAdvanceReport s = .next t ∧ DrainEnded { s with status.requests := s.status.requests + 1 } t [] older e) ∧
    ∀ id : Ident,
      let freed : State := { s with dlink.inUse := s.dlink.inUse.filter (fun u => u.id != id) }
      let slotFreed : State := { freed with capture.slots := empty, hold.passes := s.hold.passes + 1 }
      (∀ (i : Fin 8) (c : CaptureSlot) (st : DStatus), s.dlink.originOf id = some (.trigger i) → s.capture.slots[i] = some c →
        c.phase = .forwarding → c.kind = .preImage → others i → (∀ r, c.trigger = some r → r.id ∈ s.ulink.outstanding) →
        s.journal.frontier = s.journal.head →
        ∃ t, exec (.triggerResponse id st) s = .next t ∧
          DrainEnded
            { slotFreed with
              status.requests := s.status.requests + 1
              ulink := match c.trigger with
                | some r => ⟨s.ulink.outstanding.filter (fun x => x != r.id),
                    s.ulink.returned ++ [⟨.write, r.id, if st = .ok then .ok else .memError, []⟩]⟩
                | none => s.ulink }
            t [] older e) ∧
      (∀ (i : Fin 8) (c : CaptureSlot) (event : Instr), s.capture.slots[i] = some c → c.phase = .writingRecord → others i →
        (event = .voidWriteAnswer id .ok ∧ s.dlink.originOf id = some (.void i) ∧ c.kind = .void) ∨
          (event = .recordWriteAnswer id .ok ∧ s.dlink.originOf id = some (.record i) ∧ c.kind = .preImage ∧ c.awaited = 1 ∧
            c.errorSeen = false ∧ c.trigger = none) →
        ∃ (t : State) (k : Journal), exec event s = .next t ∧ Completed c.sequence s.journal k ∧
          let u : State := { slotFreed with journal := k, epoch.advances := advanced c.sequence k }
          (k.frontier = k.head → DrainEnded { u with status.requests := s.status.requests + 1 } t [] older e) ∧
          (k.frontier ≠ k.head → t = u)) ∧
      ∀ (q : Seq) (m : MarkerWrite), s.dlink.originOf id = some (.marker q) →
        s.epoch.markers.find? (fun x => x.sequence == q) = some m → m.sequence = q → m.awaited = 1 → m.errorSeen = false →
        (∀ i : Fin 8, s.capture.slots[i] = none) →
        ∃ (t : State) (k : Journal), exec (.markerWriteAnswer id .ok) s = .next t ∧ Completed q s.journal k ∧
          let u : State := { freed with journal := k, epoch.advances := advanced q k,
                                        epoch.markers := s.epoch.markers.filter (fun x => x.sequence != q) }
          (q = s.journal.frontier → k.frontier = k.head →
            DrainEnded { u with status.requests := s.status.requests + 1 } t [] older e) ∧
          (q ≠ s.journal.frontier ∨ k.frontier ≠ k.head → t = u)

/-! ### Markers and the frontier -/

/-- R11, R71, R72, R135: an answer to a marker's line write is counted; after the fifth the marker is no longer unanswered, and it is
complete, or, if an answer carried an error, a journal write fault is taken. That the fault is taken at the fifth answer, and not at the
first error, is log 22. (For the marker that ends a drain see `DrainEndStartsTheWalk`.) -/
def Obligations.MarkerWriteIsTaken : Prop :=
  ∀ (s : State) (id : Ident) (q : Seq) (m : MarkerWrite) (st : DStatus), s.atRest →
    s.dlink.originOf id = some (.marker q) → s.epoch.markers.find? (fun x => x.sequence == q) = some m → m.sequence = q →
    let bad := m.errorSeen || st == .error
    let breaks := s.epoch.engine = .capturing ∨ s.epoch.engine = .draining
    let counted : MarkerWrite := { m with awaited := m.awaited - 1, errorSeen := bad }
    let freed : State := { s with dlink.inUse := s.dlink.inUse.filter (fun u => u.id != id) }
    (2 ≤ m.awaited → exec (.markerWriteAnswer id st) s = .next
      { freed with epoch.markers := s.epoch.markers.map (fun x => if x.sequence = q then counted else x) }) ∧
    (m.awaited = 1 → bad = false → (s.epoch.engine ≠ .draining ∨ ∃ j : Fin 8, s.capture.slots[j] ≠ none) →
      ∃ t, exec (.markerWriteAnswer id st) s = .next t ∧
        t = { freed with epoch.markers := s.epoch.markers.filter (fun x => x.sequence != q), journal := t.journal,
                         epoch.advances := s.epoch.advances ++ (if q = s.journal.frontier then [t.journal.frontier] else []) } ∧
        Completed q s.journal t.journal) ∧
    (m.awaited = 1 → bad = true → ∃ t, exec (.markerWriteAnswer id st) s = .next t ∧
      t = { freed with epoch.markers := s.epoch.markers.filter (fun x => x.sequence != q),
                       epoch.engine := (if breaks then .broken .journalFault else s.epoch.engine),
                       epoch.target := (if breaks then none else s.epoch.target),
                       hold.passes := s.hold.passes + (if breaks then 1 else 0),
                       status.requests := s.status.requests + (if breaks then 1 else 0),
                       notice := t.notice, dlink.report := t.dlink.report } ∧
      Handed s t (if breaks then [(.epochBroken .journalFault s.epoch.current, s.epoch.current)] else []))

/-- R7, R12: the epoch controller counts the oldest allocation report for the current epoch, the counts stopping at 2^32−1; and a
frontier advance closes every CLOSING entry whose marker lies below it, oldest first, with an EPOCH_COMMITTED each and a request for a
status block. (For the advance that ends a drain see `DrainEndStartsTheWalk`.) -/
def Obligations.EpochControllerTakesReports : Prop :=
  ∀ s : State, s.atRest →
    (∀ (a : AllocReport) (rest : List AllocReport), s.epoch.allocReports = a :: rest → exec .allocationReport s = .next
      { s with epoch.allocReports := rest,
               epoch.captureCount := (if a.epoch = s.epoch.current then min (s.epoch.captureCount + 1) 4294967295
                 else s.epoch.captureCount),
               epoch.spillCount := (if a.epoch = s.epoch.current ∧ a.spilled = true then min (s.epoch.spillCount + 1) 4294967295
                 else s.epoch.spillCount) }) ∧
    ∀ (f : Seq) (rest : List Seq), s.epoch.advances = f :: rest →
      (s.epoch.engine ≠ .draining ∨ s.journal.frontier ≠ s.journal.head ∨ ∃ j : Fin 8, s.capture.slots[j] ≠ none) →
      (∀ e ∈ s.epoch.index, e.state = .closing → e.origin.isSome = true) →
      ∃ t, exec .frontierAdvanceReport s = .next t ∧
        t = { s with epoch.advances := rest, notice := t.notice, dlink.report := t.dlink.report,
                     epoch.index := s.journal.closeEntries [f] s.epoch.index,
                     status.requests := s.status.requests + (if s.epoch.index.any (s.journal.passed f) then 1 else 0) } ∧
        Handed s t (s.journal.closeNotices s.epoch.current s.epoch.index [f])

/-! ### The restore walk -/

/-- R109: an answer to a record read is stored, or its error kept; the fifth acts, and with an error seen the record has taken a
restore fault of reason READ_ERROR. (A fifth without error: `RecordInHandIsChecked`; under a pending abort:
`PendingAbortStopsTheWalk`.) -/
def Obligations.RestoreReadIsTaken : Prop :=
  ∀ (s : State) (id : Ident) (k : Fin 5) (st : DStatus) (data : Line), s.atRest →
    s.dlink.originOf id = some (.restoreRead k) → s.restore.phase = .reading → s.restore.abortPending = false →
    let hand := if st = .ok then s.restore.hand.set k.val (some data) k.isLt else s.restore.hand
    let bad := s.restore.errorSeen || st == .error
    let freed : State := { s with dlink.inUse := s.dlink.inUse.filter (fun u => u.id != id) }
    (2 ≤ s.restore.awaited → exec (.restoreReadAnswer id st data) s = .next
      { freed with restore := { s.restore with hand := hand, awaited := s.restore.awaited - 1, errorSeen := bad } }) ∧
    (s.restore.awaited = 1 → bad = true → exec (.restoreReadAnswer id st data) s = .next
      { freed with restore := { s.restore with
        hand := hand, awaited := 0, errorSeen := true, report := some (.fault .readError) } })

/-- R110 to R113: the fifth read, all OK, has the record checked in order. The first check that fails gives a restore fault with its
reason; a sound PRE_IMAGE goes on to be written back; a sound record of another kind is finished, which ends the walk at the floor
and elsewhere reads the next older record. -/
def Obligations.RecordInHandIsChecked : Prop :=
  ∀ (s : State) (id : Ident) (k : Fin 5) (data : Line), s.atRest →
    s.dlink.originOf id = some (.restoreRead k) → s.restore.phase = .reading → s.restore.abortPending = false →
    s.restore.awaited = 1 → s.restore.errorSeen = false →
    let hand := s.restore.hand.set k.val (some data) k.isLt
    let header := hand[0].getD zeroLine
    let image := ([1, 2, 3, 4] : List (Fin 5)).map (fun p => hand[p].getD zeroLine)
    let cursor := s.restore.cursor
    let sealed : Prop := BitVec.ofNat 32 (fieldAt header 60 4) = journalCrc (bytesAt header 0 60)
    let placed : Prop := (headerKind header = 1 ∨ headerKind header = 2 ∨ headerKind header = 3) ∧
      (headerKind header = 2 ↔ ∃ e ∈ s.epoch.index, e.marker = some cursor)
    let numbered : Prop := headerSequence header = cursor
    let owned : Prop := ∃ e, entryHolding s.journal s.epoch.index cursor = some e ∧ headerEpoch header = e.number
    let whole : Prop := headerKind header = 1 → headerImageCrc header = imageCrc image
    let after (r : Restore) : Host.Outcome State Fault Refusal :=
      .next { s with dlink.inUse := s.dlink.inUse.filter (fun u => u.id != id), restore := r }
    let faulted (reason : RestoreReason) := after { s.restore with hand := hand, awaited := 0, report := some (.fault reason) }
    let answer := exec (.restoreReadAnswer id .ok data) s
    (¬ sealed → answer = faulted .header) ∧ (sealed → ¬ placed → answer = faulted .header) ∧
    (sealed → placed → ¬ numbered → answer = faulted .sequence) ∧
    (sealed → placed → numbered → ¬ owned → answer = faulted .epoch) ∧
    (sealed → placed → numbered → owned → ¬ whole → answer = faulted .image) ∧
    (sealed → placed → numbered → owned → whole → headerKind header = 1 →
      answer = after { s.restore with hand := hand, phase := .writingBack, awaited := 4, issued := false }) ∧
    (sealed → placed → numbered → owned → headerKind header ≠ 1 → cursor = s.restore.floor →
      answer = after { s.restore with hand := hand, phase := .idle, awaited := 0, report := some .walkEnd }) ∧
    (sealed → placed → numbered → owned → headerKind header ≠ 1 → cursor ≠ s.restore.floor →
      answer = .next { s with
        dlink.inUse := s.dlink.inUse.filter (fun u => u.id != id)
        dlink.restore := s.dlink.restore ++ ([0, 1, 2, 3, 4] : List (Fin 5)).map (fun p =>
          ⟨.read, s.journal.base + BitVec.ofNat 48 ((cursor - 1).toNat % s.journal.slots * 320) + BitVec.ofNat 48 (64 * p.val),
            64, [], [], .restoreRead p⟩)
        restore := { s.restore with
          cursor := cursor - 1, hand := Vector.replicate 5 none, awaited := 5, errorSeen := false, issued := false } })

/-- R111, R113: an answer to a write-back is counted; the fourth acts. With an error the record has taken a restore fault of reason
WRITE_ERROR; without one it is applied and finished. -/
def Obligations.WriteBackIsTaken : Prop :=
  ∀ (s : State) (id : Ident) (st : DStatus), s.atRest → s.dlink.originOf id = some .writeBack →
    s.restore.phase = .writingBack →
    let bad := s.restore.errorSeen || st == .error
    let cursor := s.restore.cursor
    let after (r : Restore) : Host.Outcome State Fault Refusal :=
      .next { s with dlink.inUse := s.dlink.inUse.filter (fun u => u.id != id), restore := r }
    let answer := exec (.writeBackAnswer id st) s
    (2 ≤ s.restore.awaited → answer = after { s.restore with awaited := s.restore.awaited - 1, errorSeen := bad }) ∧
    (s.restore.awaited = 1 → bad = true →
      answer = after { s.restore with awaited := 0, errorSeen := true, report := some (.fault .writeError) }) ∧
    (s.restore.awaited = 1 → bad = false → s.restore.abortPending = false → cursor = s.restore.floor →
      answer = after { s.restore with awaited := 0, applied := s.restore.applied + 1, phase := .idle, report := some .walkEnd }) ∧
    (s.restore.awaited = 1 → bad = false → s.restore.abortPending = false → cursor ≠ s.restore.floor →
      answer = .next { s with
        dlink.inUse := s.dlink.inUse.filter (fun u => u.id != id)
        dlink.restore := s.dlink.restore ++ ([0, 1, 2, 3, 4] : List (Fin 5)).map (fun p =>
          ⟨.read, s.journal.base + BitVec.ofNat 48 ((cursor - 1).toNat % s.journal.slots * 320) + BitVec.ofNat 48 (64 * p.val),
            64, [], [], .restoreRead p⟩)
        restore := { s.restore with
          phase := .reading, cursor := cursor - 1, hand := Vector.replicate 5 none, awaited := 5, applied := s.restore.applied + 1,
          issued := false } })

/-- R119, R120: under a pending abort the restore engine stops at the end of the record in hand: in READING the answers still out are
discarded, and in WRITING_BACK the record is applied first. It then reports the stop, also when it stands at the floor. -/
def Obligations.PendingAbortStopsTheWalk : Prop :=
  ∀ (s : State) (id : Ident), s.atRest → s.restore.abortPending = true →
    let after (r : Restore) : Host.Outcome State Fault Refusal :=
      .next { s with dlink.inUse := s.dlink.inUse.filter (fun u => u.id != id), restore := r }
    (∀ (k : Fin 5) (st : DStatus) (data : Line), s.dlink.originOf id = some (.restoreRead k) → s.restore.phase = .reading →
      (2 ≤ s.restore.awaited →
        exec (.restoreReadAnswer id st data) s = after { s.restore with awaited := s.restore.awaited - 1 }) ∧
      (s.restore.awaited = 1 →
        exec (.restoreReadAnswer id st data) s = after { s.restore with awaited := 0, phase := .idle, report := some .stop })) ∧
    (s.dlink.originOf id = some .writeBack → s.restore.phase = .writingBack → s.restore.awaited = 1 →
      s.restore.errorSeen = false →
      exec (.writeBackAnswer id .ok) s = after { s.restore with
        awaited := 0, applied := s.restore.applied + 1, phase := .idle, report := some .stop })

/-- R114, R75, R5, R49, R81: the end of the walk completes the rollback. Head and frontier move to the target's first sequence, the
target's entry and every newer one leave the index, an OPEN epoch with a fresh number opens there, and the engine is CAPTURING.
(That allocation reports still out are then dropped is the model's choice, log 5.) -/
def Obligations.WalkEndCompletesTheRollback : Prop :=
  ∀ (s : State) (target : EpochNo) (older newer : List IndexEntry) (e : IndexEntry), s.atRest → EngineSound s →
    s.restore.report = some .walkEnd → s.epoch.engine = .restoring → s.epoch.target = some target →
    s.epoch.index = older ++ e :: newer → e.number = target →
    let cut : Journal := { s.journal with head := e.first, frontier := e.first }
    ∃ (t : State) (number : EpochNo), exec .walkEnd s = .next t ∧
      FreshNumber s.epoch.current number older ∧
      t = { s with restore.report := none, journal := { cut with armed := cut.armedAfter },
                   epoch := { s.epoch with
                     engine := .capturing, target := none, current := number, captureCount := 0, spillCount := 0,
                     allocReports := [], index := older ++ [⟨number, e.first, none, .opened, 0, none⟩] },
                   capture.table := [], hold.passes := s.hold.passes + 1, status.requests := s.status.requests + 1,
                   notice := t.notice, dlink.report := t.dlink.report } ∧
      Handed s t ((.epochRolledBack target number s.restore.applied, number) :: cut.lowNotices number)

/-- R115, R119, R4: a restore fault posts RESTORE_FAULT and breaks the engine with cause RESTORE_FAULT; the stop that follows an
abort breaks it with cause ABORTED. Both keep the target, the index, the journal pointers, the table and the counts. -/
def Obligations.RestoreFaultAndStopBreakTheEngine : Prop :=
  ∀ (s : State) (target : EpochNo), s.atRest → s.epoch.engine = .restoring → s.epoch.target = some target →
    (∀ reason, s.restore.report = some (.fault reason) → ∃ t, exec .restoreFaultTaken s = .next t ∧
      t = { s with restore.report := none, restore.phase := .idle, epoch.engine := .broken .restoreFault,
                   hold.passes := s.hold.passes + 1, status.requests := s.status.requests + 1, notice := t.notice,
                   dlink.report := t.dlink.report } ∧
      Handed s t [(.restoreFault reason s.restore.cursor target s.restore.applied, s.epoch.current),
        (.epochBroken .restoreFault s.epoch.current, s.epoch.current)]) ∧
    (s.restore.report = some .stop → ∃ t, exec .restoreStop s = .next t ∧
      t = { s with restore.report := none, epoch.engine := .broken .aborted,
                   hold.passes := s.hold.passes + 1, status.requests := s.status.requests + 1, notice := t.notice,
                   dlink.report := t.dlink.report } ∧
      Handed s t [(.epochBroken .aborted s.epoch.current, s.epoch.current)])

/-! ### Notices and the status block -/

/-- R169, R167, R175, R174: a ring write answered OK takes its notice out of the buffer, moves the write position, records an urgent
notice, starts the flush timer at the first unacknowledged notice, reports losses, sets ATTN by its condition and begins the next
write if there is one to begin. -/
def Obligations.NoticeIsWritten : Prop :=
  ∀ (s : State) (id : Ident) (p : Seq) (n : Notice) (rest : List Notice), s.atRest → NoticeSound s →
    s.dlink.originOf id = some .notice → s.notice.inFlight = some p → s.notice.configured = true →
    s.notice.pathStopped = false → s.notice.buffer = n :: rest →
    let u := s.notice
    let lost := u.overrunCount
    let overrun : List Notice := if lost = 0 then [] else [⟨.noticeOverrun lost, u.nextSeq, s.mgmt.time, s.epoch.current⟩]
    let position := u.writePos + 1
    let count := (position - u.ackPos).toNat
    let last := if u.urgent.getLsbD n.body.code then some p else u.lastUrgent
    let flush := if count = 1 ∧ u.tFlush ≠ 0 then .running u.tFlush else u.flush
    ∃ t, exec (.noticeWriteAnswer id .ok) s = .next t ∧
      t = { s with dlink.inUse := s.dlink.inUse.filter (fun x => x.id != id), dlink.report := t.dlink.report,
                   notice := { u with
                     buffer := rest ++ overrun, nextSeq := (if lost = 0 then u.nextSeq else u.nextSeq + 1), overrunCount := 0,
                     writePos := position, lastUrgent := last, flush := flush, inFlight := t.notice.inFlight,
                     attn := t.notice.attn } } ∧
      (t.notice.attn = true ↔ 0 < count ∧ (u.threshold ≤ count ∨ flush = .expired ∨
        ∃ x, last = some x ∧ (x - u.ackPos).toNat < count)) ∧
      (rest ++ overrun = [] ∨ u.size ≤ count → t.notice.inFlight = none ∧ t.dlink.report = s.dlink.report) ∧
      (∀ m more, rest ++ overrun = m :: more → count < u.size → t.notice.inFlight = some position ∧
        t.dlink.report = s.dlink.report ++ [⟨.write, u.base + BitVec.ofNat 48 (position.toNat % u.size * 32), 32,
          m.bytes (position.toNat / u.size % 2), List.replicate 32 true, .notice⟩])

/-- R176, R169, R178, R167: an error stops the path with FAULT.NOTICE_PATH and ATTN, and keeps the notice. The answer to a write whose
ring has been cleared takes the notice out of the buffer if it is OK, with a NOTICE_OVERRUN for losses outstanding, and sets
FAULT.NOTICE_PATH alone if it is an error. -/
def Obligations.NoticePathFaultStopsTheRing : Prop :=
  ∀ (s : State) (id : Ident) (p : Seq), s.atRest → s.dlink.originOf id = some .notice → s.notice.inFlight = some p →
    let freed : State := { s with dlink.inUse := s.dlink.inUse.filter (fun x => x.id != id), notice.inFlight := none }
    let lost := s.notice.overrunCount
    (s.notice.configured = true → exec (.noticeWriteAnswer id .error) s = .next
      { freed with notice.pathStopped := true, notice.attn := true, mgmt.fault.noticePath := true }) ∧
    (s.notice.configured = false → exec (.noticeWriteAnswer id .error) s = .next { freed with mgmt.fault.noticePath := true }) ∧
    (s.notice.configured = false → NoticeSound s → exec (.noticeWriteAnswer id .ok) s = .next
      { freed with
        notice.buffer := s.notice.buffer.drop 1 ++
          (if lost = 0 then [] else [⟨.noticeOverrun lost, s.notice.nextSeq, s.mgmt.time, s.epoch.current⟩])
        notice.nextSeq := if lost = 0 then s.notice.nextSeq else s.notice.nextSeq + 1
        notice.overrunCount := 0 })

/-- R156, R158, R159, R161: the status writer takes a request by beginning a write or by noting it as pending. A line answered OK
makes the next line ready; the last line, an error, or the line that stops the write ends it, and a pending update begins the next.
An error sets FAULT.STATUS_PATH. -/
def Obligations.StatusBlockIsWritten : Prop :=
  ∀ s : State, s.atRest →
    let sequence := if s.status.sequence + 1 = 0 then 1 else s.status.sequence + 1
    let ready (v : State) (base : Addr) (k : Nat) (l : Line) : State :=
      { v with dlink.report := v.dlink.report ++
          [⟨.write, base + BitVec.ofNat 48 (0xF00 + 64 * k), 64, l.toList, List.replicate 64 true, .status⟩] }
    let begun (v : State) : State :=
      let block := statusBlock v sequence
      ready { v with status.sequence := sequence, status.inFlight := some ⟨v.mgmt.cwBase, block, 0, false⟩ } v.mgmt.cwBase 0 block[0]
    let ended (v : State) : State :=
      if v.status.updatePending then begun { v with status.inFlight := none, status.updatePending := false }
      else { v with status.inFlight := none }
    (∀ n, s.status.requests = n + 1 → s.mgmt.device ≠ .offline →
      (s.status.inFlight = none → exec .statusUpdateRequest s = .next (begun { s with status.requests := n })) ∧
      (s.status.inFlight.isSome = true → exec .statusUpdateRequest s = .next
        { s with status.requests := n, status.updatePending := true })) ∧
    ∀ (id : Ident) (w : StatusWrite), s.dlink.originOf id = some .status → s.status.inFlight = some w →
      let freed : State := { s with dlink.inUse := s.dlink.inUse.filter (fun x => x.id != id) }
      (∀ k : Fin 4, k.val = w.line.val + 1 → w.stopping = false → exec (.statusLineAnswer id .ok) s = .next
        (ready { freed with status.inFlight := some { w with line := k } } w.base k.val w.block[k])) ∧
      (w.stopping = true ∨ w.line = 3 → exec (.statusLineAnswer id .ok) s = .next (ended freed)) ∧
      exec (.statusLineAnswer id .error) s = .next (ended { freed with mgmt.fault.statusPath := true })

/-! ### The hold queue and the timers -/

/-- R92, R93: an entry at tHOLD expires. With cause ORDER, SLOT_WAIT or FENCE it leaves the queue, is answered and posts HOLD_EXPIRED;
with cause JOURNAL_FULL it is marked exhausted and the exhaustion is reported. Before tHOLD no expiry is taken (log 1). The report
breaks a CAPTURING engine, and no other. -/
def Obligations.HeldRequestExpires : Prop :=
  ∀ s : State, s.atRest →
    (∀ e ∈ s.hold.entries, (s.hold.entries.map (fun x => x.request.id)).Nodup → e.request.id ∈ s.ulink.outstanding →
      let due : Prop := s.hold.tHold ≤ (s.mgmt.time - e.arrival).toNat
      let answer := exec (.holdExpiry e.request.id) s
      (¬ due → answer = .next s) ∧
      (due → e.cause = .journalFull → e.exhausted = false → answer = .next
        { s with epoch.exhaustions := s.epoch.exhaustions + 1,
                 hold.entries := s.hold.entries.map (fun x =>
                   if x.request.id = e.request.id then { x with exhausted := true } else x) }) ∧
      (due → e.cause ≠ .journalFull → ∃ t, answer = .next t ∧
        t = { s with hold.entries := s.hold.entries.filter (fun x => x.request.id != e.request.id),
                     hold.passes := s.hold.passes + 1, notice := t.notice, dlink.report := t.dlink.report,
                     ulink := ⟨s.ulink.outstanding.filter (fun x => x != e.request.id), s.ulink.returned ++
                       [⟨e.request.kind, e.request.id, if e.cause = .fence then .fenced else .expired, []⟩]⟩ } ∧
        Handed s t [(.holdExpired e.cause e.request.kind e.request.id e.request.addr e.window, s.epoch.current)])) ∧
    ∀ n, s.epoch.exhaustions = n + 1 →
      (s.epoch.engine ≠ .capturing → exec .exhaustionReport s = .next { s with epoch.exhaustions := n }) ∧
      (s.epoch.engine = .capturing → ∃ t, exec .exhaustionReport s = .next t ∧
        t = { s with epoch.exhaustions := n, epoch.engine := .broken .exhausted, epoch.target := none,
                     hold.passes := s.hold.passes + 1, status.requests := s.status.requests + 1, notice := t.notice,
                     dlink.report := t.dlink.report } ∧
        Handed s t [(.epochBroken .exhausted s.epoch.current, s.epoch.current)])

/-- R89, R90, R98, R42 to R45, R92, R93: a pass judges the held entries one after another, oldest first (`JudgedAll`), whatever the
engine state; what it leaves held past tHOLD with another cause than JOURNAL_FULL expires at its end, oldest first, each followed by a
pass of its own (log 10). Two cases of it with nothing at tHOLD: under the fence every entry stays, with cause ORDER or FENCE; in
BROKEN(EXHAUSTED) and BROKEN(JOURNAL_FAULT), where no slot holds the granule of an entry, every entry is forwarded. -/
def Obligations.PassJudgesHeldEntries : Prop :=
  ∀ (s : State) (n : Nat), s.atRest → s.hold.passes = n + 1 →
    let taken : State := { s with hold.passes := n }
    let reached (e : HeldEntry) : Bool := decide (s.hold.tHold ≤ (s.mgmt.time - e.arrival).toNat)
    ((s.hold.entries.map (fun e => e.request.id)).Nodup → (∀ e ∈ s.hold.entries, e.request.id ∈ s.ulink.outstanding) →
      ∃ (t u : State) (kept : List HeldEntry), exec .reevaluationPass s = .next t ∧ JudgedAll taken [] s.hold.entries u kept ∧
        let expired (e : HeldEntry) : Bool := reached e && e.cause != .journalFull
        let late := kept.filter expired
        t = { u with
          hold.entries := kept.filter (fun e => !expired e)
          hold.passes := n + late.length
          ulink := ⟨s.ulink.outstanding.filter (fun x => late.all (fun e => x != e.request.id)),
            s.ulink.returned ++ late.map (fun e =>
              ⟨e.request.kind, e.request.id, if e.cause = .fence then .fenced else .expired, []⟩)⟩
          notice := t.notice
          dlink.report := t.dlink.report } ∧
        Handed u t (late.map (fun e =>
          (.holdExpired e.cause e.request.kind e.request.id e.request.addr e.window, s.epoch.current)))) ∧
    ((∀ e ∈ s.hold.entries, reached e = false) →
      let busy (e : HeldEntry) : Bool :=
        s.capture.slots.toList.any (fun o => o.any (fun c => c.granule == granuleOf e.request.addr))
      (s.epoch.engine.fenceUp = true → exec .reevaluationPass s = .next { taken with
        hold.entries := s.hold.entries.map (fun e => { e with cause := if busy e then .order else .fence }) }) ∧
      (s.epoch.engine = .broken .exhausted ∨ s.epoch.engine = .broken .journalFault → (∀ e ∈ s.hold.entries, busy e = false) →
        exec .reevaluationPass s = .next { taken with
          hold.entries := []
          dlink.forward := s.dlink.forward ++ s.hold.entries.map (fun e =>
            ⟨e.request.kind, e.request.addr, e.request.length, e.request.data, e.request.mask,
              .forwarded e.request.id e.request.kind false true⟩) }))

/-- R14, R9, R175: the quiet timer that has run out is restarted, and in CAPTURING with a capture counted, room in the index and a free
journal slot the epoch is committed with origin QUIET. The flush timer that has run out is expired, and raises ATTN while a notice is
unacknowledged. -/
def Obligations.TimersExpire : Prop :=
  ∀ s : State, s.atRest →
    (s.epoch.quiet = .running 0 →
      let restarted : State := { s with epoch.quiet := .running (s.epoch.tQuiet * 1000) }
      let commits : Prop := s.epoch.engine = .capturing ∧ 0 < s.epoch.captureCount ∧ s.epoch.index.length < 16 ∧
        (s.journal.head - s.journal.release).toNat < s.journal.slots
      (¬ commits → exec .quietExpiry s = .next restarted) ∧
      (commits → s.epoch.allocReports = [] → ∃ (t : State) (number : EpochNo), exec .quietExpiry s = .next t ∧
        FreshNumber s.epoch.current number s.epoch.index ∧
        t = { restarted.committed number .quiet with notice := t.notice, dlink.report := t.dlink.report } ∧
        Handed s t (({ s.journal with head := s.journal.head + 1 } : Journal).lowNotices number))) ∧
    (s.notice.flush = .running 0 → exec .flushExpiry s = .next
      { s with notice.flush := .expired, notice.attn := s.notice.pathStopped || decide (s.notice.writePos ≠ s.notice.ackPos) })

/-! ### Commands: judgement, answer and change -/

/-- R28, R27, R29 to R32: WINDOW_SET is judged by the checks in order, and accepted replaces the five fields of the window it names. -/
def Obligations.WindowSetIsJudgedAndApplied : Prop :=
  ∀ (s : State) (q : QueuedCommand) (rest : List QueuedCommand), s.atRest → s.offers q rest 1 →
    let a := windowArgs q.args
    let area : Area := ⟨a.base, a.limit⟩
    let inRange : Prop := a.base ≤ 281474976710655 ∧ a.limit ≤ 281474976710655 ∧ a.base % 4096 = 0 ∧ a.limit % 4096 = 4095 ∧
      a.base ≤ a.limit ∧ a.quietReload ≤ 1 ∧ a.guardReport ≤ 1
    let wellFormed : Prop := a.index ≤ 15 ∧ (a.mode = 0 ∨ ((a.mode = 1 ∨ a.mode = 2) ∧ inRange))
    let named : Option Window := s.windows[a.index]?
    let journalNow : Prop := named.any (fun w => w.mode == .journal) = true
    let work : Prop := (named.bind (fun w => w.area?)).any (fun r =>
      s.capture.slots.toList.any (fun o => o.any (fun c => r.holds (c.granule ++ 0#8).toNat)) ||
      s.hold.entries.any (fun e => r.holds e.request.addr.toNat)) = true
    let overlap : Prop := a.mode ≠ 0 ∧
      ((∃ i : Fin 16, i.val ≠ a.index ∧ meetsOpt area s.windows[i].area? = true) ∨ meetsOpt area s.commandArea? = true ∨
        meetsOpt area s.journalArea? = true ∨ meetsOpt area s.noticeArea? = true)
    let r : Result :=
      if ¬ wellFormed then .badArgument
      else if a.mode = 1 ∧ s.mgmt.device ≠ .running then .noJournal
      else if (a.mode = 1 ∨ journalNow) ∧ ¬ (s.epoch.engine = .capturing ∧ s.epoch.captureCount = 0) then .epochActive
      else if journalNow ∧ work then .busy
      else if overlap then .overlap
      else .done
    let contents : Window :=
      if a.mode = 0 then ⟨.off, 0, 0, false, false⟩
      else if a.mode = 1 then ⟨.journal, BitVec.ofNat 48 a.base, BitVec.ofNat 48 a.limit, a.quietReload == 1, false⟩
      else ⟨.guard, BitVec.ofNat 48 a.base, BitVec.ofNat 48 a.limit, false, a.guardReport == 1⟩
    ∃ t, exec .windowSet s = .next t ∧ (r ≠ .done → Refused s t q rest r) ∧
      (r = .done →
        t = { s.answered q rest .done with windows := t.windows, notice := t.notice, dlink.report := t.dlink.report } ∧
        (∀ i : Fin 16, t.windows[i] = if i.val = a.index then contents else s.windows[i]) ∧
        Handed s t [(.commandDone q.tag q.opcode .done, s.epoch.current)])

/-- R66, R18, R65, R5, R81, R151: JOURNAL_SET is judged by the checks in order. Accepted it configures the journal with the three pointers
at 0, makes the device RUNNING and the engine CAPTURING, and opens epoch 1. (That allocation reports, advances and exhaustion reports
still out are dropped is logs 5, 6 and 19; that its COMMAND_DONE carries the epoch after the change is log 9.) -/
def Obligations.JournalSetIsJudgedAndApplied : Prop :=
  ∀ (s : State) (q : QueuedCommand) (rest : List QueuedCommand), s.atRest → s.offers q rest 2 →
    let base := fieldAt q.args 16 8
    let n := fieldAt q.args 8 4
    let area : Area := ⟨base, base + n * 320 - 1⟩
    let fits : Prop := base % 4096 = 0 ∧ (∃ k ≤ 12, n = 256 * 2 ^ k) ∧ base + n * 320 - 1 ≤ 281474976710655
    let overlap : Prop := (∃ i : Fin 16, meetsOpt area s.windows[i].area? = true) ∨ meetsOpt area s.commandArea? = true ∨
      meetsOpt area s.noticeArea? = true
    let opened : Journal := ⟨BitVec.ofNat 48 base, n, 0, 0, 0, [], s.journal.lwm, s.journal.armed⟩
    ∃ (t : State) (r : Result), exec .journalSet s = .next t ∧
      (s.mgmt.device ≠ .listening → r = .state) ∧
      (s.mgmt.device = .listening → ¬ fits → r = .badArgument) ∧
      (s.mgmt.device = .listening → fits → overlap → r = .overlap) ∧
      (s.mgmt.device = .listening → fits → ¬ overlap → r = .done) ∧
      (r ≠ .done → Refused s t q rest r) ∧
      (r = .done →
        t = { s.answered q rest .done with
          mgmt.device := .running
          journal := { opened with armed := opened.armedAfter }
          epoch := ⟨.capturing, 1, [⟨1, 0, none, .opened, 0, none⟩], 0, 0, none, [], .stopped, s.epoch.tQuiet, [], [], 0⟩
          hold.passes := s.hold.passes + 1
          notice := t.notice
          dlink.report := t.dlink.report } ∧
        Handed s t ((.commandDone q.tag q.opcode .done, 1) :: opened.lowNotices 1))

/-- R19, R67, R151: JOURNAL_CLEAR is judged by the checks in order. Accepted it removes the journal but for LWM, ends the engine and the
epoch state but for tQUIET, empties the granule table and makes the device LISTENING. (That allocation reports, advances and exhaustion
reports still out are dropped is logs 5, 6 and 19; that its COMMAND_DONE carries epoch 0 is log 9.) -/
def Obligations.JournalClearIsJudgedAndApplied : Prop :=
  ∀ (s : State) (q : QueuedCommand) (rest : List QueuedCommand), s.atRest → s.offers q rest 3 →
    let r : Result :=
      if s.mgmt.device ≠ .running then .noJournal
      else if s.epoch.engine = .draining ∨ s.epoch.engine = .restoring ∨ s.epoch.engine = .absent then .busy
      else if ∃ i : Fin 16, s.windows[i].mode = .journal then .state
      else if (∃ i : Fin 8, s.capture.slots[i] ≠ none) ∨ s.epoch.markers ≠ [] then .busy
      else .done
    ∃ t, exec .journalClear s = .next t ∧ (r ≠ .done → Refused s t q rest r) ∧
      (r = .done →
        t = { s.answered q rest .done with
          mgmt.device := .listening
          journal := ⟨0, 0, 0, 0, 0, [], s.journal.lwm, true⟩
          epoch := ⟨.absent, 0, [], 0, 0, none, [], .stopped, s.epoch.tQuiet, [], [], 0⟩
          capture.table := []
          restore := Restore.reset
          hold.passes := s.hold.passes + 1
          notice := t.notice
          dlink.report := t.dlink.report } ∧
        Handed s t [(.commandDone q.tag q.opcode .done, 0)])

/-- R15, R16, R74, R81: JOURNAL_RELEASE is judged by the checks in order. Accepted it moves release past the named epoch's marker and
takes that epoch and all older ones out of the index. -/
def Obligations.JournalReleaseIsJudgedAndApplied : Prop :=
  ∀ (s : State) (q : QueuedCommand) (rest : List QueuedCommand), s.atRest → s.offers q rest 4 → EngineSound s →
    let n := BitVec.ofNat 32 (fieldAt q.args 8 4)
    let named : EpochNo := if n = 0 then s.epoch.current else n
    (s.mgmt.device ≠ .running → ∃ t, exec .journalRelease s = .next t ∧ Refused s t q rest .noJournal) ∧
    (s.epoch.engine = .draining ∨ s.epoch.engine = .restoring →
      ∃ t, exec .journalRelease s = .next t ∧ Refused s t q rest .busy) ∧
    (s.mgmt.device = .running → s.epoch.engine ≠ .draining → s.epoch.engine ≠ .restoring →
      ((∀ e ∈ s.epoch.index, e.number ≠ named) →
        ∃ t, exec .journalRelease s = .next t ∧ Refused s t q rest .unknownEpoch) ∧
      ∀ older e newer, s.epoch.index = older ++ e :: newer → e.number = named →
        let retry := s.epoch.engine = .broken .restoreFault ∨ s.epoch.engine = .broken .aborted
        (e.state ≠ .closed → ∃ t, exec .journalRelease s = .next t ∧ Refused s t q rest .state) ∧
        (e.state = .closed → retry → (∀ x ∈ newer, s.epoch.target ≠ some x.number) →
          ∃ t, exec .journalRelease s = .next t ∧ Refused s t q rest .busy) ∧
        ∀ m, e.state = .closed → e.marker = some m → (¬ retry ∨ ∃ x ∈ newer, s.epoch.target = some x.number) →
          let released : Journal := { s.journal with release := m + 1 }
          ∃ t, exec .journalRelease s = .next t ∧
            t = { s.answered q rest .done with
              journal := { released with armed := released.armedAfter }
              epoch.index := newer
              hold.passes := s.hold.passes + 1
              notice := t.notice
              dlink.report := t.dlink.report } ∧
            Handed s t ((.commandDone q.tag q.opcode .done, s.epoch.current) :: released.lowNotices s.epoch.current))

/-- R8, R9, R11, R5, R151: EPOCH_COMMIT is judged by the checks in order, and accepted closes the current epoch with a marker at head and
opens the next. (Allocation reports still out are counted first, log 5; this states it with none out. That its COMMAND_DONE carries the
new epoch's number is log 9.) -/
def Obligations.EpochCommitIsJudgedAndApplied : Prop :=
  ∀ (s : State) (q : QueuedCommand) (rest : List QueuedCommand), s.atRest → s.offers q rest 5 →
    let r : Result :=
      if s.mgmt.device ≠ .running then .noJournal
      else if s.epoch.engine ≠ .capturing then .state
      else if 16 ≤ s.epoch.index.length then .indexFull
      else if s.journal.slots ≤ (s.journal.head - s.journal.release).toNat then .journalFull
      else .started
    ∃ t, exec .epochCommit s = .next t ∧ (r ≠ .started → Refused s t q rest r) ∧
      (r = .started → s.epoch.allocReports = [] → ∃ number : EpochNo,
        FreshNumber s.epoch.current number s.epoch.index ∧
        t = { (s.answered q rest .started).committed number .command with notice := t.notice, dlink.report := t.dlink.report } ∧
        Handed s t ((.commandDone q.tag q.opcode .started, number) ::
          ({ s.journal with head := s.journal.head + 1 } : Journal).lowNotices number))

/-- R103 to R106, R108, R114, R120, R151: EPOCH_ROLLBACK is judged by the checks in order. Accepted it stores the target and raises the
fence in DRAINING; where no slot is busy and frontier is at head, the drain ends in the same action, behind its COMMAND_DONE (log 9;
`DrainEnded`: the walk begins, or with no record to walk the rollback is complete, logs 6 and 7). -/
def Obligations.EpochRollbackIsJudgedAndApplied : Prop :=
  ∀ (s : State) (q : QueuedCommand) (rest : List QueuedCommand), s.atRest → s.offers q rest 6 → EngineSound s →
    let n := BitVec.ofNat 32 (fieldAt q.args 8 4)
    let named : EpochNo := if n = 0 then s.epoch.current else n
    let refusal (r : Result) : Prop := ∃ t, exec .epochRollback s = .next t ∧ Refused s t q rest r
    let retry := s.epoch.engine = .broken .restoreFault ∨ s.epoch.engine = .broken .aborted
    (s.mgmt.device ≠ .running → refusal .noJournal) ∧
    (s.epoch.engine = .draining ∨ s.epoch.engine = .restoring → refusal .busy) ∧
    (s.epoch.engine = .broken .exhausted ∨ s.epoch.engine = .broken .journalFault → refusal .notRecoverable) ∧
    (s.epoch.engine = .capturing ∨ retry →
      ((∀ e ∈ s.epoch.index, e.number ≠ named) → refusal .unknownEpoch) ∧
      ∀ older e newer, s.epoch.index = older ++ e :: newer → e.number = named →
        (retry → (∀ x ∈ e :: newer, s.epoch.target ≠ some x.number) → refusal .state) ∧
        (s.epoch.engine = .capturing ∨ (∃ x ∈ e :: newer, s.epoch.target = some x.number) →
          let drained := (∀ i : Fin 8, s.capture.slots[i] = none) ∧ s.journal.frontier = s.journal.head
          let ordered : State := { s.answered q rest .started with
            epoch.engine := .draining, epoch.target := some named, hold.passes := s.hold.passes + 1 }
          let done := [(NoticeBody.commandDone q.tag q.opcode .started, s.epoch.current)]
          ∃ t, exec .epochRollback s = .next t ∧
            (¬ drained → t = { ordered with notice := t.notice, dlink.report := t.dlink.report } ∧ Handed s t done) ∧
            (drained → DrainEnded ordered t done older e)))

/-- R117 to R119: ROLLBACK_ABORT in DRAINING drops the target and resumes capturing; in RESTORING it sets abort pending; elsewhere it is
refused. -/
def Obligations.RollbackAbortIsJudgedAndApplied : Prop :=
  ∀ (s : State) (q : QueuedCommand) (rest : List QueuedCommand), s.atRest → s.offers q rest 7 →
    let r : Result :=
      if s.mgmt.device ≠ .running then .noJournal
      else if s.epoch.engine = .draining then .done
      else if s.epoch.engine = .restoring then (if s.restore.abortPending then .busy else .started)
      else .state
    ∃ t, exec .rollbackAbort s = .next t ∧ (r ≠ .done → r ≠ .started → Refused s t q rest r) ∧
      (r = .done →
        t = { s.answered q rest .done with
          epoch.engine := .capturing, epoch.target := none, hold.passes := s.hold.passes + 1, notice := t.notice,
          dlink.report := t.dlink.report }) ∧
      (r = .started →
        t = { s.answered q rest .started with restore.abortPending := true, notice := t.notice, dlink.report := t.dlink.report }) ∧
      Handed s t [(.commandDone q.tag q.opcode r, s.epoch.current)]

/-- R17, R76, R5, R81, R151: EPOCH_RESUME is judged by the checks in order. Accepted it gives up the journal's contents, opens a fresh
epoch at head and makes the engine CAPTURING; the release and the engine change cause a pass each (R88). (That allocation reports and
advances still out are dropped is logs 5 and 6; that its COMMAND_DONE carries the new epoch's number is log 9.) -/
def Obligations.EpochResumeIsJudgedAndApplied : Prop :=
  ∀ (s : State) (q : QueuedCommand) (rest : List QueuedCommand), s.atRest → s.offers q rest 8 →
    let r : Result :=
      if s.mgmt.device ≠ .running then .noJournal
      else if s.epoch.engine.isBroken = false then .state
      else if (∃ i : Fin 8, s.capture.slots[i] ≠ none) ∨ s.epoch.markers ≠ [] then .busy
      else .done
    let number : EpochNo := if s.epoch.current + 1 = 0 then 1 else s.epoch.current + 1
    let emptied : Journal := { s.journal with release := s.journal.head, frontier := s.journal.head, completed := [] }
    ∃ t, exec .epochResume s = .next t ∧ (r ≠ .done → Refused s t q rest r) ∧
      (r = .done →
        t = { s.answered q rest .done with
          journal := { emptied with armed := emptied.armedAfter }
          epoch := { s.epoch with
            engine := .capturing, current := number, index := [⟨number, s.journal.head, none, .opened, 0, none⟩],
            captureCount := 0, spillCount := 0, target := none, allocReports := [], advances := [] }
          capture.table := []
          hold.passes := s.hold.passes + 2
          notice := t.notice
          dlink.report := t.dlink.report } ∧
        Handed s t ((.commandDone q.tag q.opcode .done, number) :: emptied.lowNotices number))

/-- R171, R172, R169, R174: NOTICE_SET is judged by the checks in order. Accepted it configures the ring with both positions at 0, keeps
the buffer and the counts, deasserts ATTN, and the oldest notice, which may be its own COMMAND_DONE, is written at position 0. -/
def Obligations.NoticeSetIsJudgedAndApplied : Prop :=
  ∀ (s : State) (q : QueuedCommand) (rest : List QueuedCommand), s.atRest → s.offers q rest 9 →
    let base := fieldAt q.args 16 8
    let size := fieldAt q.args 8 4
    let threshold := fieldAt q.args 12 4
    let tFlush := fieldAt q.args 24 4
    let urgent := fieldAt q.args 28 2
    let area : Area := ⟨base, base + size * 32 - 1⟩
    let wellFormed : Prop := base % 32 = 0 ∧ (∃ k ≤ 12, size = 16 * 2 ^ k) ∧ base + size * 32 - 1 ≤ 281474976710655 ∧
      1 ≤ threshold ∧ threshold ≤ 255 ∧ tFlush ≤ 65535 ∧ urgent % 2 = 0 ∧ urgent < 8192
    let inUse : Prop := s.notice.inFlight ≠ none ∨ (s.notice.configured = true ∧ s.notice.writePos ≠ s.notice.ackPos)
    let overlap : Prop := (∃ i : Fin 16, meetsOpt area s.windows[i].area? = true) ∨ meetsOpt area s.commandArea? = true ∨
      meetsOpt area s.journalArea? = true
    let ring : NoticeUnit := { s.notice with
      configured := true, base := BitVec.ofNat 48 base, size := size, threshold := threshold, tFlush := tFlush,
      urgent := BitVec.ofNat 16 urgent, writePos := 0, ackPos := 0, lastUrgent := none, flush := .stopped, pathStopped := false,
      attn := false }
    ∃ (t : State) (r : Result), exec .noticeSet s = .next t ∧
      (¬ wellFormed → r = .badArgument) ∧
      (wellFormed → inUse → r = .busy) ∧
      (wellFormed → ¬ inUse → overlap → r = .overlap) ∧
      (wellFormed → ¬ inUse → ¬ overlap → r = .done) ∧
      (r ≠ .done → Refused s t q rest r) ∧
      (r = .done → ∃ m more, t.notice.buffer = m :: more ∧
        t = { s.answered q rest .done with
          notice := { handOver s.mgmt.time ring (.commandDone q.tag q.opcode .done, s.epoch.current) with inFlight := some 0 }
          dlink.report := s.dlink.report ++
            [⟨.write, BitVec.ofNat 48 base, 32, m.bytes 0, List.replicate 32 true, .notice⟩] })

/-- R173, R174, R175, R169, R151: NOTICE_ACK is accepted from the acknowledged position up to the write position. It moves the
acknowledged position, stops the flush timer when nothing is left unacknowledged, sets ATTN by its condition, may begin a ring write,
and posts no COMMAND_DONE. -/
def Obligations.NoticeAckIsJudgedAndApplied : Prop :=
  ∀ (s : State) (q : QueuedCommand) (rest : List QueuedCommand), s.atRest → s.offers q rest 10 →
    let u := s.notice
    let p : Seq := BitVec.ofNat 32 (fieldAt q.args 8 4)
    let count := (u.writePos - p).toNat
    let flush := if u.writePos = p then .stopped else u.flush
    let writes : Prop := u.configured = true ∧ u.pathStopped = false ∧ u.inFlight = none ∧ count < u.size
    ((u.writePos - u.ackPos).toNat < (p - u.ackPos).toNat → ∃ t, exec .noticeAck s = .next t ∧ Refused s t q rest .badArgument) ∧
    ((p - u.ackPos).toNat ≤ (u.writePos - u.ackPos).toNat → ∃ t, exec .noticeAck s = .next t ∧
      t = { s.answered q rest .done with
        notice := { u with ackPos := p, flush := flush, inFlight := t.notice.inFlight, attn := t.notice.attn }
        dlink.report := t.dlink.report } ∧
      (t.notice.attn = true ↔ u.pathStopped = true ∨ (0 < count ∧ (u.threshold ≤ count ∨ flush = .expired ∨
        ∃ x, u.lastUrgent = some x ∧ (x - p).toNat < count))) ∧
      (¬ writes ∨ u.buffer = [] → t.notice.inFlight = u.inFlight ∧ t.dlink.report = s.dlink.report) ∧
      ∀ m more, writes → u.buffer = m :: more → t.notice.inFlight = some u.writePos ∧
        t.dlink.report = s.dlink.report ++ [⟨.write, u.base + BitVec.ofNat 48 (u.writePos.toNat % u.size * 32), 32,
          m.bytes (u.writePos.toNat / u.size % 2), List.replicate 32 true, .notice⟩])

/-- R153, R13, R82, R81, R96: TIMING_SET is judged whole before it stores anything. Accepted it stores the three values, stops,
restarts or leaves the quiet timer, and runs the low-water test when LWM changes while RUNNING. A lowered tHOLD that a lone held entry
has reached expires it at once: a fenced entry is answered FENCED, and one of cause JOURNAL_FULL in CAPTURING breaks the engine and is
forwarded uncaptured. (Which of two owners hands its notices over first is the model's operand, log 11.) -/
def Obligations.TimingSetIsJudgedAndApplied : Prop :=
  ∀ (s : State) (q : QueuedCommand) (rest : List QueuedCommand) (lwmFirst : Bool), s.atRest → s.offers q rest 11 →
    let tHold := fieldAt q.args 8 4
    let tQuiet := fieldAt q.args 12 4
    let lwm := fieldAt q.args 16 4
    let bad : Prop := tHold = 0 ∨ 65535 < tHold ∨ 65535 < tQuiet ∨ 1048576 < lwm ∨
      (s.mgmt.device = .running ∧ s.journal.slots < lwm)
    let quiet : QuietTimer :=
      if tQuiet = 0 ∨ s.epoch.quiet = .stopped then .stopped
      else if tQuiet = s.epoch.tQuiet then s.epoch.quiet
      else .running (tQuiet * 1000)
    let marked : Journal := { s.journal with lwm := lwm }
    let tested : Prop := lwm ≠ s.journal.lwm ∧ s.mgmt.device = .running
    let stored : State := { s.answered q rest .done with
      epoch.tQuiet := tQuiet
      epoch.quiet := quiet
      hold.tHold := tHold
      journal := { marked with armed := if tested then marked.armedAfter else s.journal.armed } }
    let done := (NoticeBody.commandDone q.tag q.opcode .done, s.epoch.current)
    let reached (e : HeldEntry) : Prop := tHold ≤ (s.mgmt.time - e.arrival).toNat
    (bad → ∃ t, exec (.timingSet lwmFirst) s = .next t ∧ Refused s t q rest .badArgument) ∧
    (¬ bad → s.hold.tHold ≤ tHold ∨ (∀ e ∈ s.hold.entries, ¬ reached e) → ∃ t, exec (.timingSet lwmFirst) s = .next t ∧
      t = { stored with notice := t.notice, dlink.report := t.dlink.report } ∧
      Handed s t (done :: if tested then marked.lowNotices s.epoch.current else [])) ∧
    (¬ bad → tHold < s.hold.tHold → lwm = s.journal.lwm → ∀ e, s.hold.entries = [e] → reached e →
      (e.cause = .fence → e.request.id ∈ s.ulink.outstanding → ∃ t, exec (.timingSet lwmFirst) s = .next t ∧
        t = { stored with
          hold.entries := []
          ulink := ⟨s.ulink.outstanding.filter (fun x => x != e.request.id),
            s.ulink.returned ++ [⟨e.request.kind, e.request.id, .fenced, []⟩]⟩
          notice := t.notice
          dlink.report := t.dlink.report } ∧
        Handed s t [done, (.holdExpired .fence e.request.kind e.request.id e.request.addr e.window, s.epoch.current)]) ∧
      (e.cause = .journalFull → e.exhausted = false → s.epoch.engine = .capturing →
        (∀ (i : Fin 8) (c : CaptureSlot), s.capture.slots[i] = some c → c.granule ≠ granuleOf e.request.addr) →
        ∃ t, exec (.timingSet lwmFirst) s = .next t ∧
          t = { stored with
            hold.entries := []
            epoch.engine := .broken .exhausted
            epoch.target := none
            dlink.forward := s.dlink.forward ++ [⟨e.request.kind, e.request.addr, e.request.length, e.request.data, e.request.mask,
              .forwarded e.request.id e.request.kind false true⟩]
            notice := t.notice
            dlink.report := t.dlink.report } ∧
          Handed s t [done, (.epochBroken .exhausted s.epoch.current, s.epoch.current)]))

/-- R154, whole: STATUS_SNAPSHOT is accepted wherever commands are taken and answered DONE, whatever its arguments; beside the record of
it, the COMMAND_DONE and the status request that every command causes, nothing changes. R150 for the other row: an opcode that names no
command is refused with BAD_OPCODE. -/
def Obligations.SnapshotAndUnknownOpcodeAreAnswered : Prop :=
  ∀ (s : State) (q : QueuedCommand) (rest : List QueuedCommand), s.atRest → s.mgmt.device ≠ .offline → s.cmd.queue = q :: rest →
    (q.opcode = 12 → ∃ t, exec .statusSnapshot s = .next t ∧
      t = { s.answered q rest .done with notice := t.notice, dlink.report := t.dlink.report } ∧
      Handed s t [(.commandDone q.tag q.opcode .done, s.epoch.current)]) ∧
    (q.opcode = 0 ∨ 12 < q.opcode.toNat → ∃ t, exec .badOpcode s = .next t ∧ Refused s t q rest .badOpcode)

/-! ### The management port -/

/-- R182, R188, R178, R155, R161, R180: a CONTROL write without SOFT_RESET enables an OFFLINE device, disables a LISTENING one (the
windows, the notice configuration and the command queue are cleared, the buffer is kept, and the status writer finishes the line it has
out), is refused where it would disable a RUNNING one, and changes nothing in the other cases. (That update requests still out are dropped
on leaving LISTENING is log 8.) -/
def Obligations.ControlWriteMovesTheDevice : Prop :=
  ∀ s : State, s.atRest →
    let taken : State := { s with mgmt.dout := List.replicate 32 false }
    let u := s.notice
    (s.mgmt.device = .offline → exec (.cwEnable true) s = .next
      { taken with mgmt.cwEnable := true, mgmt.device := .listening, status.requests := s.status.requests + 1 }) ∧
    (s.mgmt.device = .listening → exec (.cwEnable false) s = .next
      { taken with
        mgmt.cwEnable := false
        mgmt.device := .offline
        windows := Vector.replicate 16 ⟨.off, 0, 0, false, false⟩
        notice := ⟨u.buffer, u.nextSeq, false, 0, 0, 0, 0, u.inFlight, false, 1, 100, 0, none, .stopped, u.overrunCount,
          u.overrunTotal, false⟩
        cmd.queue := []
        status := { s.status with
          inFlight := s.status.inFlight.map (fun w => { w with stopping := true }), updatePending := false, requests := 0 } }) ∧
    (s.mgmt.device = .running → exec (.cwEnable false) s = .next { taken with mgmt.fault.mgmtRefused := true }) ∧
    (s.mgmt.device = .offline → exec (.cwEnable false) s = .next taken) ∧
    (s.mgmt.device ≠ .offline → exec (.cwEnable true) s = .next taken)

/-- R180, R181, R183, R184, R186: the other management writes reach their registers alone. CW_BASE is written while OFFLINE only, and
stays page-aligned; CMD_STREAMS is written anywhere; a 1 written to FAULT clears its bit; a write to a read-only or unassigned register
sets MGMT_REFUSED; an abandoned frame changes no register, and an abandoned read has returned the bits shifted so far. -/
def Obligations.ManagementWritesReachTheirRegisters : Prop :=
  ∀ s : State, s.atRest →
    let taken : State := { s with mgmt.dout := List.replicate 32 false }
    (∀ (half : RegHalf) (data : BitVec 32),
      (s.mgmt.device ≠ .offline → exec (.cwBaseWrite half data) s = .next { taken with mgmt.fault.mgmtRefused := true }) ∧
      (s.mgmt.device = .offline → ∃ t, exec (.cwBaseWrite half data) s = .next t ∧
        t = { taken with mgmt.cwBase := t.mgmt.cwBase } ∧
        t.mgmt.cwBase.toNat = (match half with
          | .lo => s.mgmt.cwBase.toNat / 4294967296 * 4294967296 + data.toNat / 4096 * 4096
          | .hi => data.toNat % 65536 * 4294967296 + s.mgmt.cwBase.toNat % 4294967296)) ∧
      ∃ t, exec (.cmdStreamsWrite half data) s = .next t ∧ t = { taken with mgmt.cmdStreams := t.mgmt.cmdStreams } ∧
        ∀ k : Nat, k < 32 →
          t.mgmt.cmdStreams.getLsbD k = (if half = .lo then data.getLsbD k else s.mgmt.cmdStreams.getLsbD k) ∧
          t.mgmt.cmdStreams.getLsbD (32 + k) = (if half = .hi then data.getLsbD k else s.mgmt.cmdStreams.getLsbD (32 + k))) ∧
    (∀ data : BitVec 32, exec (.faultWrite data) s = .next
      { taken with mgmt.fault :=
        ⟨s.mgmt.fault.noticePath && !data.getLsbD 0, s.mgmt.fault.statusPath && !data.getLsbD 1,
          s.mgmt.fault.mgmtRefused && !data.getLsbD 2⟩ }) ∧
    (∀ (reg : BitVec 4) (data : BitVec 32), reg = 0 ∨ reg = 6 ∨ reg = 7 ∨ 9 ≤ reg.toNat →
      exec (.mgmtWriteRefused reg data) s = .next { taken with mgmt.fault.mgmtRefused := true }) ∧
    ∀ (bits : List Bool) (reg : BitVec 4), bits.length < 40 → (∀ k < 4, reg.getLsbD k = bits.getD (7 - k) false) →
      exec (.frameAbandoned bits) s = .next
        { s with mgmt.frame := none, mgmt.dout := List.ofFn (fun k : Fin (bits.length - 8) =>
          bits.head? == some false && (s.mgmtRead reg).getLsbD (31 - k.val)) }

/-- R191, R22, R25, R63, R83, R99, R124, R141, R155, R161, R177, R180: a soft reset keeps the management registers but for CW_ENABLE, the
frame in progress, the FORWARD class and the identities in use, answers RETRY for held requests and unforwarded triggers, and returns
everything else to its reset value. A trigger already handed over is answered as any forwarded request, or discarded if it is absent; the
identity such a discarded one then names is a placeholder of the model, which nothing reads (log 13). Device-originated work is at an end.
(The order of the RETRY answers of the slots is log 12.) -/
def Obligations.SoftResetKeepsTheLinks : Prop :=
  ∀ (s : State) (enable : Bool), s.atRest →
    let kept (o : Origin) : Origin :=
      match o with
      | .forwarded id kind dropped byCapture => .forwarded id kind dropped byCapture
      | .trigger i => (match s.capture.slots[i].bind (fun c => c.trigger) with
        | some r => .forwarded r.id .write false true
        | none => .forwarded ⟨0, 0⟩ .write true true)
      | _ => .abandoned
    let unforwarded (id : Ident) : Prop :=
      (∃ e ∈ s.hold.entries, e.request.id = id) ∨
      ∃ (i : Fin 8) (c : CaptureSlot) (r : Request), s.capture.slots[i] = some c ∧ c.phase ≠ .forwarding ∧ c.trigger = some r ∧
        r.id = id
    ∃ t, exec (.softReset enable) s = .next t ∧
      t = { State.reset with
        mgmt := { s.mgmt with
          device := if enable then .listening else .offline, cwEnable := enable, time := 0, dout := List.replicate 32 false }
        ulink := t.ulink
        dlink := ⟨s.dlink.forward.map (fun q => { q with origin := kept q.origin }), [], [], [], .report,
          s.dlink.inUse.map (fun u => { u with origin := kept u.origin }), s.dlink.issued⟩
        status.requests := if enable then 1 else 0
        pending := s.pending
        serial := s.serial } ∧
      (∀ id, id ∈ t.ulink.outstanding ↔ id ∈ s.ulink.outstanding ∧ ¬ unforwarded id) ∧
      ∃ answers : List Response, t.ulink.returned = s.ulink.returned ++ answers ∧
        (∀ a ∈ answers, a.status = .retry ∧ unforwarded a.id) ∧
        ∀ id ∈ s.ulink.outstanding, unforwarded id → (answers.filter (fun a => a.id == id)).length = 1

/-- R180, R181, R182, R185, R198: with no command waiting, a step takes the next event on the pins of the management port (log 18). Select
begins a frame; its bits are shifted most significant first. The eighth bit of a read captures the register it names, and the value is
driven on data out during the data bits; in a write 0 is. The fortieth bit of a write puts the command its register number and data name
in front of the queue, as the very next. Bits after the fortieth are ignored with data out driven 0; bits without a frame are ignored;
deselect ends the frame. The last clause is what each register reads. -/
def Obligations.ManagementFramesAreShifted : Prop :=
  (∀ (s : State) (e : SerialEvent) (rest : List SerialEvent), s.pending = [] → s.serial = e :: rest →
    step s = .next (takeSerial { s with serial := rest } e)) ∧
  (∀ s : State, s.resetAsserted = false →
    takeSerial s .select = { s with mgmt.frame := some ⟨[], 0⟩, mgmt.dout := [] } ∧
    takeSerial s .deselect = { s with mgmt.frame := none } ∧
    (∀ b, s.mgmt.frame = none → takeSerial s (.bit b) = s) ∧
    ∀ (bits : List Bool) (reg : BitVec 4) (data : BitVec 32),
      (∀ k < 4, reg.getLsbD k = bits.getD (7 - k) false) → (∀ k < 32, data.getLsbD k = bits.getD (39 - k) false) →
      let shifted := bits.foldl (fun u b => takeSerial u (.bit b)) (takeSerial s .select)
      let value := s.mgmtRead reg
      let named : Instr :=
        if reg = 1 then (if data.getLsbD 1 then .softReset (data.getLsbD 0) else .cwEnable (data.getLsbD 0))
        else if reg = 2 then .cwBaseWrite .lo data
        else if reg = 3 then .cwBaseWrite .hi data
        else if reg = 4 then .cmdStreamsWrite .lo data
        else if reg = 5 then .cmdStreamsWrite .hi data
        else if reg = 8 then .faultWrite data
        else .mgmtWriteRefused reg data
      (bits.length < 8 → shifted = { s with mgmt.frame := some ⟨bits, 0⟩, mgmt.dout := [] }) ∧
      (8 ≤ bits.length → bits.head? = some false → shifted =
        { s with mgmt.frame := some ⟨bits.take 40, value⟩,
                 mgmt.dout := List.ofFn (fun k : Fin (bits.length - 8) => decide (k.val < 32) && value.getLsbD (31 - k.val)) }) ∧
      (8 ≤ bits.length → bits.head? = some true → shifted =
        { s with mgmt.frame := some ⟨bits.take 40, 0⟩, mgmt.dout := List.replicate (bits.length - 8) false,
                 pending := if 40 ≤ bits.length then named :: s.pending else s.pending })) ∧
  ∀ s : State,
    s.mgmtRead 0 = 0x24100001#32 ∧ s.mgmtRead 1 = (if s.mgmt.cwEnable then 1#32 else 0#32) ∧
    (s.mgmtRead 2).toNat = s.mgmt.cwBase.toNat % 4294967296 ∧ (s.mgmtRead 3).toNat = s.mgmt.cwBase.toNat / 4294967296 ∧
    (∀ k < 32, (s.mgmtRead 4).getLsbD k = s.mgmt.cmdStreams.getLsbD k ∧
      (s.mgmtRead 5).getLsbD k = s.mgmt.cmdStreams.getLsbD (32 + k)) ∧
    (s.mgmtRead 6).toNat = s.mgmt.device.code + 256 * s.epoch.engine.code + 65536 * (match s.epoch.engine with
      | .broken cause => cause.code
      | _ => 0) ∧
    s.mgmtRead 7 = s.epoch.current ∧
    (s.mgmtRead 8).toNat = (if s.mgmt.fault.noticePath then 1 else 0) + (if s.mgmt.fault.statusPath then 2 else 0) +
      (if s.mgmt.fault.mgmtRefused then 4 else 0) ∧
    ∀ reg : BitVec 4, 9 ≤ reg.toNat → s.mgmtRead reg = 0

/-! ### Formats and invariants -/

/-- R77, R79, R80, R193, R195: what the part writes into a record header is what a record check reads from it, and every other field
stands in its place: the header check holds, and kind, SPILLED, window index, stream, sequence, epoch, image CRC, granule address, record
count, spill count, origin and cause read back, with zeros between them. -/
def Obligations.HeadersReadBack : Prop :=
  (∀ (c : CaptureSlot) (crc : BitVec 32),
    let h := preImageHeader c crc
    headerCheckOk h = true ∧ headerKind h = 1 ∧ headerSequence h = c.sequence ∧ headerEpoch h = c.epoch ∧
      headerImageCrc h = crc ∧ headerGranuleAddr h = c.granule ++ 0#8 ∧
      fieldAt h 1 1 = (if c.spilled then 1 else 0) ∧ fieldAt h 2 1 = c.window.val ∧ fieldAt h 3 1 = c.stream.toNat ∧
      fieldAt h 16 8 = c.granule.toNat * 256 ∧ fieldAt h 24 36 = 0) ∧
  (∀ c : CaptureSlot,
    let h := voidHeader c
    headerCheckOk h = true ∧ headerKind h = 3 ∧ headerSequence h = c.sequence ∧ headerEpoch h = c.epoch ∧
      headerGranuleAddr h = c.granule ++ 0#8 ∧
      fieldAt h 1 1 = (if c.spilled then 1 else 0) ∧ fieldAt h 2 1 = c.window.val ∧ fieldAt h 3 1 = c.stream.toNat ∧
      fieldAt h 12 4 = 0 ∧ fieldAt h 16 8 = c.granule.toNat * 256 ∧ fieldAt h 24 8 = 0 ∧ fieldAt h 32 1 = 1 ∧
      fieldAt h 33 27 = 0) ∧
  ∀ (q : Seq) (epoch : EpochNo) (records spills : Nat) (origin : MarkOrigin),
    let h := markHeader q epoch records spills origin
    headerCheckOk h = true ∧ headerKind h = 2 ∧ headerSequence h = q ∧ headerEpoch h = epoch ∧
      fieldAt h 1 3 = 0 ∧ fieldAt h 12 12 = 0 ∧ fieldAt h 24 4 = records % 4294967296 ∧ fieldAt h 28 4 = spills % 4294967296 ∧
      fieldAt h 32 1 = (match origin with
        | .command => 1
        | .quiet => 2) ∧ fieldAt h 33 27 = 0

/-- R193, R196, R157, R197, R163: a notice is 32 bytes, with its kind, lap, identity mark, sequence, device time, epoch and payload in
their places and zeros elsewhere; and a status block is built from the state of each block as it stands, every item in its place. (That the
last tag and the last result are 0 while no command has been taken is log 31.) -/
def Obligations.NoticesAndStatusBlocksHoldTheirFields : Prop :=
  ([Result.done, .started, .badOpcode, .badArgument, .state, .busy, .overlap, .epochActive, .indexFull, .journalFull,
    .notRecoverable, .noJournal, .unknownEpoch].map Result.code = List.range 13 ∧
    [RestoreReason.header, .sequence, .epoch, .image, .readError, .writeError].map RestoreReason.code = [1, 2, 3, 4, 5, 6] ∧
    [HoldCause.order, .slotWait, .journalFull, .fence].map HoldCause.code = [1, 2, 3, 4] ∧
    [BrokenCause.exhausted, .journalFault, .restoreFault, .aborted].map BrokenCause.code = [1, 2, 3, 4] ∧
    [MarkOrigin.command, .quiet].map MarkOrigin.code = [1, 2] ∧ [DropReason.malformed, .queueFull].map DropReason.code = [1, 2] ∧
    [ReqKind.read, .write].map reqKindCode = [0, 1] ∧
    [DeviceState.offline, .listening, .running].map DeviceState.code = [0, 1, 2] ∧
    [Engine.absent, .capturing, .draining, .restoring, .broken .exhausted].map Engine.code = [0, 1, 2, 3, 4]) ∧
  (∀ (n : Notice) (lap : Nat), lap < 2 →
    let bytes := n.bytes lap
    let at' (offset size : Nat) : Nat := leValue ((bytes.drop offset).take size)
    let head (kind present : Nat) : Prop := bytes.length = 32 ∧ at' 0 1 = kind ∧ at' 1 1 = lap + present ∧
      at' 2 4 = n.sequence.toNat ∧ at' 6 4 = n.time.toNat ∧ at' 10 4 = n.epoch.toNat
    match n.body with
    | .commandDone tag opcode result => head 1 0 ∧ at' 14 2 = tag.toNat ∧ at' 16 1 = opcode.toNat ∧ at' 17 1 = result.code ∧
        at' 18 14 = 0
    | .commandDropped reason stream line tagOpcode => head 2 (if tagOpcode.isSome then 2 else 0) ∧
        (∀ tag opcode, tagOpcode = some (tag, opcode) → at' 14 2 = tag.toNat ∧ at' 16 1 = opcode.toNat) ∧
        (tagOpcode = none → at' 14 3 = 0) ∧
        at' 17 1 = reason.code ∧ at' 18 1 = stream.toNat ∧ at' 19 1 = line % 256 ∧ at' 20 12 = 0
    | .foreignCommand stream line => head 3 0 ∧ at' 14 4 = 0 ∧ at' 18 1 = stream.toNat ∧ at' 19 1 = line % 256 ∧ at' 20 12 = 0
    | .epochCommitted epoch marker count origin => head 4 0 ∧ at' 14 1 = origin.code ∧ at' 15 1 = 0 ∧ at' 16 4 = epoch.toNat ∧
        at' 20 4 = marker.toNat ∧ at' 24 4 = count % 4294967296 ∧ at' 28 4 = 0
    | .epochBroken cause epoch => head 5 0 ∧ at' 14 1 = cause.code ∧ at' 15 1 = 0 ∧ at' 16 4 = epoch.toNat ∧ at' 20 12 = 0
    | .epochRolledBack target newEpoch applied => head 6 0 ∧ at' 14 2 = 0 ∧ at' 16 4 = target.toNat ∧ at' 20 4 = newEpoch.toNat ∧
        at' 24 4 = applied % 4294967296 ∧ at' 28 4 = 0
    | .restoreFault reason sequence target applied => head 7 0 ∧ at' 14 1 = reason.code ∧ at' 15 1 = 0 ∧
        at' 16 4 = sequence.toNat ∧ at' 20 4 = target.toNat ∧ at' 24 4 = applied % 4294967296 ∧ at' 28 4 = 0
    | .captureFault granule sequence epoch trigger => head 8 (if trigger.isSome then 2 else 0) ∧
        (∀ id, trigger = some id → at' 14 1 = id.stream.toNat ∧ at' 15 1 = id.tag.toNat) ∧ (trigger = none → at' 14 2 = 0) ∧
        at' 16 4 = sequence.toNat ∧ at' 20 4 = epoch.toNat ∧ at' 24 6 = granule.toNat * 256 ∧ at' 30 2 = 0
    | .holdExpired cause kind id addr window => head 9 0 ∧ at' 14 1 = cause.code ∧ at' 15 1 = reqKindCode kind ∧
        at' 16 1 = id.stream.toNat ∧ at' 17 1 = id.tag.toNat ∧ at' 18 1 = window.val ∧ at' 19 1 = 0 ∧ at' 20 6 = addr.toNat ∧
        at' 26 6 = 0
    | .journalLow free lwm headSeq frontier release => head 10 0 ∧ at' 14 3 = free % 16777216 ∧ at' 17 3 = lwm % 16777216 ∧
        at' 20 4 = headSeq.toNat ∧ at' 24 4 = frontier.toNat ∧ at' 28 4 = release.toNat
    | .guardHit window id addr length => head 11 0 ∧ at' 14 1 = window.val ∧ at' 15 1 = id.stream.toNat ∧ at' 16 1 = id.tag.toNat ∧
        at' 17 1 = length % 256 ∧ at' 18 2 = 0 ∧ at' 20 6 = addr.toNat ∧ at' 26 6 = 0
    | .noticeOverrun lost => head 12 0 ∧ at' 14 2 = 0 ∧ at' 16 4 = lost % 4294967296 ∧ at' 20 12 = 0) ∧
  ∀ (s : State) (q : BitVec 32),
    let block := statusBlock s q
    let l60 := block[0]
    let l61 := block[1]
    let l62 := block[2]
    let l63 := block[3]
    (fieldAt l60 0 4 = q.toNat ∧ fieldAt l60 4 1 = s.mgmt.device.code ∧ fieldAt l60 5 1 = s.epoch.engine.code ∧
      fieldAt l60 6 1 = (match s.epoch.engine with
        | .broken cause => cause.code
        | _ => 0) ∧
      fieldAt l60 7 1 = (if s.mgmt.fault.noticePath then 1 else 0) + (if s.mgmt.fault.statusPath then 2 else 0) +
        (if s.mgmt.fault.mgmtRefused then 4 else 0) ∧
      fieldAt l60 8 4 = s.epoch.current.toNat ∧ fieldAt l60 12 1 = s.epoch.index.length % 256 ∧
      fieldAt l60 13 1 = (s.capture.slots.toList.filter (fun o => o.isSome)).length ∧
      fieldAt l60 14 1 = s.hold.entries.length % 256 ∧ fieldAt l60 15 1 = 0 ∧
      fieldAt l60 16 4 = (s.epoch.index.head?.map (fun e => e.number.toNat)).getD 0 ∧
      fieldAt l60 20 4 = (s.epoch.target.map (fun n => n.toNat)).getD 0 ∧
      fieldAt l60 24 4 = s.epoch.captureCount % 4294967296 ∧ fieldAt l60 28 4 = s.epoch.spillCount % 4294967296 ∧
      fieldAt l60 32 32 = 0) ∧
    (fieldAt l61 0 4 = s.journal.head.toNat ∧ fieldAt l61 4 4 = s.journal.frontier.toNat ∧
      fieldAt l61 8 4 = s.journal.release.toNat ∧ fieldAt l61 12 4 = s.journal.slots % 4294967296 ∧
      fieldAt l61 16 4 = s.restore.cursor.toNat ∧ fieldAt l61 20 44 = 0) ∧
    (fieldAt l62 0 4 = s.notice.writePos.toNat ∧ fieldAt l62 4 4 = s.notice.ackPos.toNat ∧
      fieldAt l62 8 4 = s.notice.overrunTotal % 4294967296 ∧ fieldAt l62 12 4 = s.cmd.taken.toNat ∧
      (∀ c, s.cmd.last = some c → fieldAt l62 16 2 = c.tag.toNat ∧ fieldAt l62 18 1 = c.opcode.toNat ∧
        fieldAt l62 19 1 = c.result.code) ∧
      (s.cmd.last = none → fieldAt l62 16 4 = 0) ∧ fieldAt l62 20 44 = 0) ∧
    fieldAt l63 0 60 = 0 ∧ fieldAt l63 60 4 = q.toNat

/-- R13, R47, R50, R85, R128, R132, R148, R153, R165, R171, R175, R180, R183: every step keeps every buffer, queue and set within its
capacity, the granule table a set, the granules of the capture slots apart, a frame within its forty bits, and every setting and timer in
its range. -/
def Obligations.CapacitiesAndSettingsAreKept : Prop :=
  ∀ s t : State, WithinCapacity s ∧ CaptureSound s ∧ SettingsInRange s → step s = .next t →
    WithinCapacity t ∧ CaptureSound t ∧ SettingsInRange t

/-- R2, R4 to R6, R103 to R105: every step keeps the engine in being exactly while RUNNING, the index well formed, and the rollback
target an entry of the index, present exactly while the fence is up. -/
def Obligations.EngineStaysSound : Prop := ∀ s t : State, EngineSound s → step s = .next t → EngineSound t

/-- R26: every step keeps the windows, the command window, the journal area and the notice area apart. -/
def Obligations.AreasStayDisjoint : Prop := ∀ s t : State, AreasDisjoint s → step s = .next t → AreasDisjoint t

/-- R167, R168, R174: every step keeps the notice buffer full while losses are unreported, the unacknowledged count within the ring, and
ATTN equal to its condition. -/
def Obligations.NoticesStaySound : Prop := ∀ s t : State, NoticeSound s → step s = .next t → NoticeSound t

/-- The invariants hold after power-on reset. -/
def Obligations.InvariantsHoldAtReset : Prop :=
  let s := State.reset
  WithinCapacity s ∧ CaptureSound s ∧ SettingsInRange s ∧ EngineSound s ∧ AreasDisjoint s ∧ NoticeSound s
end

