-- ==== Sys2Proof/Laws/State.lean ====
section
/-! SUPPORT. What each named update does to each block of the state: one lemma per update and block. -/

namespace Sys2Proof.Machine

/-- States with equal items are equal. -/
theorem State.eq_of {s t : State} (mgmt : s.mgmt = t.mgmt) (windows : s.windows = t.windows) (epoch : s.epoch = t.epoch)
    (journal : s.journal = t.journal) (capture : s.capture = t.capture) (hold : s.hold = t.hold) (restore : s.restore = t.restore)
    (ulink : s.ulink = t.ulink) (dlink : s.dlink = t.dlink) (cmd : s.cmd = t.cmd) (status : s.status = t.status)
    (notice : s.notice = t.notice) (resetAsserted : s.resetAsserted = t.resetAsserted) (pending : s.pending = t.pending)
    (serial : s.serial = t.serial) : s = t := by
  cases s; cases t; simp_all

@[simp] theorem askStatus_mgmt (s : State) : (askStatus s).mgmt = s.mgmt := rfl
@[simp] theorem askStatus_windows (s : State) : (askStatus s).windows = s.windows := rfl
@[simp] theorem askStatus_epoch (s : State) : (askStatus s).epoch = s.epoch := rfl
@[simp] theorem askStatus_journal (s : State) : (askStatus s).journal = s.journal := rfl
@[simp] theorem askStatus_capture (s : State) : (askStatus s).capture = s.capture := rfl
@[simp] theorem askStatus_hold (s : State) : (askStatus s).hold = s.hold := rfl
@[simp] theorem askStatus_restore (s : State) : (askStatus s).restore = s.restore := rfl
@[simp] theorem askStatus_ulink (s : State) : (askStatus s).ulink = s.ulink := rfl
@[simp] theorem askStatus_dlink (s : State) : (askStatus s).dlink = s.dlink := rfl
@[simp] theorem askStatus_cmd (s : State) : (askStatus s).cmd = s.cmd := rfl
@[simp] theorem askStatus_status (s : State) : (askStatus s).status = { s.status with asked := true } := rfl
@[simp] theorem askStatus_notice (s : State) : (askStatus s).notice = s.notice := rfl
@[simp] theorem askStatus_resetAsserted (s : State) : (askStatus s).resetAsserted = s.resetAsserted := rfl
@[simp] theorem askStatus_pending (s : State) : (askStatus s).pending = s.pending := rfl
@[simp] theorem askStatus_serial (s : State) : (askStatus s).serial = s.serial := rfl

@[simp] theorem readyForward_mgmt (s : State) (qs : List DRequest) : (readyForward s qs).mgmt = s.mgmt := rfl
@[simp] theorem readyForward_windows (s : State) (qs : List DRequest) : (readyForward s qs).windows = s.windows := rfl
@[simp] theorem readyForward_epoch (s : State) (qs : List DRequest) : (readyForward s qs).epoch = s.epoch := rfl
@[simp] theorem readyForward_journal (s : State) (qs : List DRequest) : (readyForward s qs).journal = s.journal := rfl
@[simp] theorem readyForward_capture (s : State) (qs : List DRequest) : (readyForward s qs).capture = s.capture := rfl
@[simp] theorem readyForward_hold (s : State) (qs : List DRequest) : (readyForward s qs).hold = s.hold := rfl
@[simp] theorem readyForward_restore (s : State) (qs : List DRequest) : (readyForward s qs).restore = s.restore := rfl
@[simp] theorem readyForward_ulink (s : State) (qs : List DRequest) : (readyForward s qs).ulink = s.ulink := rfl
@[simp] theorem readyForward_dlink (s : State) (qs : List DRequest) :
    (readyForward s qs).dlink = { s.dlink with forward := s.dlink.forward ++ qs } := rfl
@[simp] theorem readyForward_cmd (s : State) (qs : List DRequest) : (readyForward s qs).cmd = s.cmd := rfl
@[simp] theorem readyForward_status (s : State) (qs : List DRequest) : (readyForward s qs).status = s.status := rfl
@[simp] theorem readyForward_notice (s : State) (qs : List DRequest) : (readyForward s qs).notice = s.notice := rfl
@[simp] theorem readyForward_resetAsserted (s : State) (qs : List DRequest) :
    (readyForward s qs).resetAsserted = s.resetAsserted := rfl
@[simp] theorem readyForward_pending (s : State) (qs : List DRequest) : (readyForward s qs).pending = s.pending := rfl
@[simp] theorem readyForward_serial (s : State) (qs : List DRequest) : (readyForward s qs).serial = s.serial := rfl

@[simp] theorem readyCapture_mgmt (s : State) (qs : List DRequest) : (readyCapture s qs).mgmt = s.mgmt := rfl
@[simp] theorem readyCapture_windows (s : State) (qs : List DRequest) : (readyCapture s qs).windows = s.windows := rfl
@[simp] theorem readyCapture_epoch (s : State) (qs : List DRequest) : (readyCapture s qs).epoch = s.epoch := rfl
@[simp] theorem readyCapture_journal (s : State) (qs : List DRequest) : (readyCapture s qs).journal = s.journal := rfl
@[simp] theorem readyCapture_capture (s : State) (qs : List DRequest) : (readyCapture s qs).capture = s.capture := rfl
@[simp] theorem readyCapture_hold (s : State) (qs : List DRequest) : (readyCapture s qs).hold = s.hold := rfl
@[simp] theorem readyCapture_restore (s : State) (qs : List DRequest) : (readyCapture s qs).restore = s.restore := rfl
@[simp] theorem readyCapture_ulink (s : State) (qs : List DRequest) : (readyCapture s qs).ulink = s.ulink := rfl
@[simp] theorem readyCapture_dlink (s : State) (qs : List DRequest) :
    (readyCapture s qs).dlink = { s.dlink with capture := s.dlink.capture ++ qs } := rfl
@[simp] theorem readyCapture_cmd (s : State) (qs : List DRequest) : (readyCapture s qs).cmd = s.cmd := rfl
@[simp] theorem readyCapture_status (s : State) (qs : List DRequest) : (readyCapture s qs).status = s.status := rfl
@[simp] theorem readyCapture_notice (s : State) (qs : List DRequest) : (readyCapture s qs).notice = s.notice := rfl
@[simp] theorem readyCapture_resetAsserted (s : State) (qs : List DRequest) :
    (readyCapture s qs).resetAsserted = s.resetAsserted := rfl
@[simp] theorem readyCapture_pending (s : State) (qs : List DRequest) : (readyCapture s qs).pending = s.pending := rfl
@[simp] theorem readyCapture_serial (s : State) (qs : List DRequest) : (readyCapture s qs).serial = s.serial := rfl

@[simp] theorem readyRestore_mgmt (s : State) (qs : List DRequest) : (readyRestore s qs).mgmt = s.mgmt := rfl
@[simp] theorem readyRestore_windows (s : State) (qs : List DRequest) : (readyRestore s qs).windows = s.windows := rfl
@[simp] theorem readyRestore_epoch (s : State) (qs : List DRequest) : (readyRestore s qs).epoch = s.epoch := rfl
@[simp] theorem readyRestore_journal (s : State) (qs : List DRequest) : (readyRestore s qs).journal = s.journal := rfl
@[simp] theorem readyRestore_capture (s : State) (qs : List DRequest) : (readyRestore s qs).capture = s.capture := rfl
@[simp] theorem readyRestore_hold (s : State) (qs : List DRequest) : (readyRestore s qs).hold = s.hold := rfl
@[simp] theorem readyRestore_restore (s : State) (qs : List DRequest) : (readyRestore s qs).restore = s.restore := rfl
@[simp] theorem readyRestore_ulink (s : State) (qs : List DRequest) : (readyRestore s qs).ulink = s.ulink := rfl
@[simp] theorem readyRestore_dlink (s : State) (qs : List DRequest) :
    (readyRestore s qs).dlink = { s.dlink with restore := s.dlink.restore ++ qs } := rfl
@[simp] theorem readyRestore_cmd (s : State) (qs : List DRequest) : (readyRestore s qs).cmd = s.cmd := rfl
@[simp] theorem readyRestore_status (s : State) (qs : List DRequest) : (readyRestore s qs).status = s.status := rfl
@[simp] theorem readyRestore_notice (s : State) (qs : List DRequest) : (readyRestore s qs).notice = s.notice := rfl
@[simp] theorem readyRestore_resetAsserted (s : State) (qs : List DRequest) :
    (readyRestore s qs).resetAsserted = s.resetAsserted := rfl
@[simp] theorem readyRestore_pending (s : State) (qs : List DRequest) : (readyRestore s qs).pending = s.pending := rfl
@[simp] theorem readyRestore_serial (s : State) (qs : List DRequest) : (readyRestore s qs).serial = s.serial := rfl

@[simp] theorem readyReport_mgmt (s : State) (qs : List DRequest) : (readyReport s qs).mgmt = s.mgmt := rfl
@[simp] theorem readyReport_windows (s : State) (qs : List DRequest) : (readyReport s qs).windows = s.windows := rfl
@[simp] theorem readyReport_epoch (s : State) (qs : List DRequest) : (readyReport s qs).epoch = s.epoch := rfl
@[simp] theorem readyReport_journal (s : State) (qs : List DRequest) : (readyReport s qs).journal = s.journal := rfl
@[simp] theorem readyReport_capture (s : State) (qs : List DRequest) : (readyReport s qs).capture = s.capture := rfl
@[simp] theorem readyReport_hold (s : State) (qs : List DRequest) : (readyReport s qs).hold = s.hold := rfl
@[simp] theorem readyReport_restore (s : State) (qs : List DRequest) : (readyReport s qs).restore = s.restore := rfl
@[simp] theorem readyReport_ulink (s : State) (qs : List DRequest) : (readyReport s qs).ulink = s.ulink := rfl
@[simp] theorem readyReport_dlink (s : State) (qs : List DRequest) :
    (readyReport s qs).dlink = { s.dlink with report := s.dlink.report ++ qs } := rfl
@[simp] theorem readyReport_cmd (s : State) (qs : List DRequest) : (readyReport s qs).cmd = s.cmd := rfl
@[simp] theorem readyReport_status (s : State) (qs : List DRequest) : (readyReport s qs).status = s.status := rfl
@[simp] theorem readyReport_notice (s : State) (qs : List DRequest) : (readyReport s qs).notice = s.notice := rfl
@[simp] theorem readyReport_resetAsserted (s : State) (qs : List DRequest) :
    (readyReport s qs).resetAsserted = s.resetAsserted := rfl
@[simp] theorem readyReport_pending (s : State) (qs : List DRequest) : (readyReport s qs).pending = s.pending := rfl
@[simp] theorem readyReport_serial (s : State) (qs : List DRequest) : (readyReport s qs).serial = s.serial := rfl

@[simp] theorem freeIdent_mgmt (s : State) (id : Ident) : (freeIdent s id).mgmt = s.mgmt := rfl
@[simp] theorem freeIdent_windows (s : State) (id : Ident) : (freeIdent s id).windows = s.windows := rfl
@[simp] theorem freeIdent_epoch (s : State) (id : Ident) : (freeIdent s id).epoch = s.epoch := rfl
@[simp] theorem freeIdent_journal (s : State) (id : Ident) : (freeIdent s id).journal = s.journal := rfl
@[simp] theorem freeIdent_capture (s : State) (id : Ident) : (freeIdent s id).capture = s.capture := rfl
@[simp] theorem freeIdent_hold (s : State) (id : Ident) : (freeIdent s id).hold = s.hold := rfl
@[simp] theorem freeIdent_restore (s : State) (id : Ident) : (freeIdent s id).restore = s.restore := rfl
@[simp] theorem freeIdent_ulink (s : State) (id : Ident) : (freeIdent s id).ulink = s.ulink := rfl
@[simp] theorem freeIdent_dlink (s : State) (id : Ident) :
    (freeIdent s id).dlink = { s.dlink with inUse := s.dlink.inUse.filter (fun u => u.id != id) } := rfl
@[simp] theorem freeIdent_cmd (s : State) (id : Ident) : (freeIdent s id).cmd = s.cmd := rfl
@[simp] theorem freeIdent_status (s : State) (id : Ident) : (freeIdent s id).status = s.status := rfl
@[simp] theorem freeIdent_notice (s : State) (id : Ident) : (freeIdent s id).notice = s.notice := rfl
@[simp] theorem freeIdent_resetAsserted (s : State) (id : Ident) : (freeIdent s id).resetAsserted = s.resetAsserted := rfl
@[simp] theorem freeIdent_pending (s : State) (id : Ident) : (freeIdent s id).pending = s.pending := rfl
@[simp] theorem freeIdent_serial (s : State) (id : Ident) : (freeIdent s id).serial = s.serial := rfl

@[simp] theorem updateAttn_mgmt (s : State) : (updateAttn s).mgmt = s.mgmt := rfl
@[simp] theorem updateAttn_windows (s : State) : (updateAttn s).windows = s.windows := rfl
@[simp] theorem updateAttn_epoch (s : State) : (updateAttn s).epoch = s.epoch := rfl
@[simp] theorem updateAttn_journal (s : State) : (updateAttn s).journal = s.journal := rfl
@[simp] theorem updateAttn_capture (s : State) : (updateAttn s).capture = s.capture := rfl
@[simp] theorem updateAttn_hold (s : State) : (updateAttn s).hold = s.hold := rfl
@[simp] theorem updateAttn_restore (s : State) : (updateAttn s).restore = s.restore := rfl
@[simp] theorem updateAttn_ulink (s : State) : (updateAttn s).ulink = s.ulink := rfl
@[simp] theorem updateAttn_dlink (s : State) : (updateAttn s).dlink = s.dlink := rfl
@[simp] theorem updateAttn_cmd (s : State) : (updateAttn s).cmd = s.cmd := rfl
@[simp] theorem updateAttn_status (s : State) : (updateAttn s).status = s.status := rfl
@[simp] theorem updateAttn_notice (s : State) : (updateAttn s).notice = { s.notice with attn := s.notice.attnCondition } := rfl
@[simp] theorem updateAttn_resetAsserted (s : State) : (updateAttn s).resetAsserted = s.resetAsserted := rfl
@[simp] theorem updateAttn_pending (s : State) : (updateAttn s).pending = s.pending := rfl
@[simp] theorem updateAttn_serial (s : State) : (updateAttn s).serial = s.serial := rfl

@[simp] theorem reportChange_mgmt (s : State) : (reportChange s).mgmt = s.mgmt := rfl
@[simp] theorem reportChange_windows (s : State) : (reportChange s).windows = s.windows := rfl
@[simp] theorem reportChange_epoch (s : State) : (reportChange s).epoch = s.epoch := rfl
@[simp] theorem reportChange_journal (s : State) : (reportChange s).journal = s.journal := rfl
@[simp] theorem reportChange_capture (s : State) : (reportChange s).capture = s.capture := rfl
@[simp] theorem reportChange_hold (s : State) : (reportChange s).hold = { s.hold with passes := s.hold.passes + 1 } := rfl
@[simp] theorem reportChange_restore (s : State) : (reportChange s).restore = s.restore := rfl
@[simp] theorem reportChange_ulink (s : State) : (reportChange s).ulink = s.ulink := rfl
@[simp] theorem reportChange_dlink (s : State) : (reportChange s).dlink = s.dlink := rfl
@[simp] theorem reportChange_cmd (s : State) : (reportChange s).cmd = s.cmd := rfl
@[simp] theorem reportChange_status (s : State) : (reportChange s).status = { s.status with asked := true } := rfl
@[simp] theorem reportChange_notice (s : State) : (reportChange s).notice = s.notice := rfl
@[simp] theorem reportChange_resetAsserted (s : State) : (reportChange s).resetAsserted = s.resetAsserted := rfl
@[simp] theorem reportChange_pending (s : State) : (reportChange s).pending = s.pending := rfl
@[simp] theorem reportChange_serial (s : State) : (reportChange s).serial = s.serial := rfl

@[simp] theorem setEngine_mgmt (s : State) (e : Engine) : (setEngine s e).mgmt = s.mgmt := rfl
@[simp] theorem setEngine_windows (s : State) (e : Engine) : (setEngine s e).windows = s.windows := rfl
@[simp] theorem setEngine_epoch (s : State) (e : Engine) : (setEngine s e).epoch = { s.epoch with engine := e } := rfl
@[simp] theorem setEngine_journal (s : State) (e : Engine) : (setEngine s e).journal = s.journal := rfl
@[simp] theorem setEngine_capture (s : State) (e : Engine) : (setEngine s e).capture = s.capture := rfl
@[simp] theorem setEngine_hold (s : State) (e : Engine) :
    (setEngine s e).hold = { s.hold with passes := s.hold.passes + 1 } := rfl
@[simp] theorem setEngine_restore (s : State) (e : Engine) : (setEngine s e).restore = s.restore := rfl
@[simp] theorem setEngine_ulink (s : State) (e : Engine) : (setEngine s e).ulink = s.ulink := rfl
@[simp] theorem setEngine_dlink (s : State) (e : Engine) : (setEngine s e).dlink = s.dlink := rfl
@[simp] theorem setEngine_cmd (s : State) (e : Engine) : (setEngine s e).cmd = s.cmd := rfl
@[simp] theorem setEngine_status (s : State) (e : Engine) : (setEngine s e).status = { s.status with asked := true } := rfl
@[simp] theorem setEngine_notice (s : State) (e : Engine) : (setEngine s e).notice = s.notice := rfl
@[simp] theorem setEngine_resetAsserted (s : State) (e : Engine) : (setEngine s e).resetAsserted = s.resetAsserted := rfl
@[simp] theorem setEngine_pending (s : State) (e : Engine) : (setEngine s e).pending = s.pending := rfl
@[simp] theorem setEngine_serial (s : State) (e : Engine) : (setEngine s e).serial = s.serial := rfl

@[simp] theorem setSlot_mgmt (s : State) (i : Fin 8) (c : Option CaptureSlot) : (setSlot s i c).mgmt = s.mgmt := rfl
@[simp] theorem setSlot_windows (s : State) (i : Fin 8) (c : Option CaptureSlot) : (setSlot s i c).windows = s.windows := rfl
@[simp] theorem setSlot_epoch (s : State) (i : Fin 8) (c : Option CaptureSlot) : (setSlot s i c).epoch = s.epoch := rfl
@[simp] theorem setSlot_journal (s : State) (i : Fin 8) (c : Option CaptureSlot) : (setSlot s i c).journal = s.journal := rfl
@[simp] theorem setSlot_capture (s : State) (i : Fin 8) (c : Option CaptureSlot) :
    (setSlot s i c).capture = { s.capture with slots := s.capture.slots.set i.val c i.isLt } := rfl
@[simp] theorem setSlot_hold (s : State) (i : Fin 8) (c : Option CaptureSlot) : (setSlot s i c).hold = s.hold := rfl
@[simp] theorem setSlot_restore (s : State) (i : Fin 8) (c : Option CaptureSlot) : (setSlot s i c).restore = s.restore := rfl
@[simp] theorem setSlot_ulink (s : State) (i : Fin 8) (c : Option CaptureSlot) : (setSlot s i c).ulink = s.ulink := rfl
@[simp] theorem setSlot_dlink (s : State) (i : Fin 8) (c : Option CaptureSlot) : (setSlot s i c).dlink = s.dlink := rfl
@[simp] theorem setSlot_cmd (s : State) (i : Fin 8) (c : Option CaptureSlot) : (setSlot s i c).cmd = s.cmd := rfl
@[simp] theorem setSlot_status (s : State) (i : Fin 8) (c : Option CaptureSlot) : (setSlot s i c).status = s.status := rfl
@[simp] theorem setSlot_notice (s : State) (i : Fin 8) (c : Option CaptureSlot) : (setSlot s i c).notice = s.notice := rfl
@[simp] theorem setSlot_resetAsserted (s : State) (i : Fin 8) (c : Option CaptureSlot) :
    (setSlot s i c).resetAsserted = s.resetAsserted := rfl
@[simp] theorem setSlot_pending (s : State) (i : Fin 8) (c : Option CaptureSlot) : (setSlot s i c).pending = s.pending := rfl
@[simp] theorem setSlot_serial (s : State) (i : Fin 8) (c : Option CaptureSlot) : (setSlot s i c).serial = s.serial := rfl

@[simp] theorem refuseAtPort_mgmt (s : State) (r : Request) : (refuseAtPort s r).mgmt = s.mgmt := rfl
@[simp] theorem refuseAtPort_windows (s : State) (r : Request) : (refuseAtPort s r).windows = s.windows := rfl
@[simp] theorem refuseAtPort_epoch (s : State) (r : Request) : (refuseAtPort s r).epoch = s.epoch := rfl
@[simp] theorem refuseAtPort_journal (s : State) (r : Request) : (refuseAtPort s r).journal = s.journal := rfl
@[simp] theorem refuseAtPort_capture (s : State) (r : Request) : (refuseAtPort s r).capture = s.capture := rfl
@[simp] theorem refuseAtPort_hold (s : State) (r : Request) : (refuseAtPort s r).hold = s.hold := rfl
@[simp] theorem refuseAtPort_restore (s : State) (r : Request) : (refuseAtPort s r).restore = s.restore := rfl
@[simp] theorem refuseAtPort_ulink (s : State) (r : Request) :
    (refuseAtPort s r).ulink = { s.ulink with returned := s.ulink.returned ++ [⟨r.kind, r.id, .refused, []⟩] } := rfl
@[simp] theorem refuseAtPort_dlink (s : State) (r : Request) : (refuseAtPort s r).dlink = s.dlink := rfl
@[simp] theorem refuseAtPort_cmd (s : State) (r : Request) : (refuseAtPort s r).cmd = s.cmd := rfl
@[simp] theorem refuseAtPort_status (s : State) (r : Request) : (refuseAtPort s r).status = s.status := rfl
@[simp] theorem refuseAtPort_notice (s : State) (r : Request) : (refuseAtPort s r).notice = s.notice := rfl
@[simp] theorem refuseAtPort_resetAsserted (s : State) (r : Request) : (refuseAtPort s r).resetAsserted = s.resetAsserted := rfl
@[simp] theorem refuseAtPort_pending (s : State) (r : Request) : (refuseAtPort s r).pending = s.pending := rfl
@[simp] theorem refuseAtPort_serial (s : State) (r : Request) : (refuseAtPort s r).serial = s.serial := rfl

@[simp] theorem reportRestore_mgmt (s : State) (r : RestoreReport) : (reportRestore s r).mgmt = s.mgmt := rfl
@[simp] theorem reportRestore_windows (s : State) (r : RestoreReport) : (reportRestore s r).windows = s.windows := rfl
@[simp] theorem reportRestore_epoch (s : State) (r : RestoreReport) : (reportRestore s r).epoch = s.epoch := rfl
@[simp] theorem reportRestore_journal (s : State) (r : RestoreReport) : (reportRestore s r).journal = s.journal := rfl
@[simp] theorem reportRestore_capture (s : State) (r : RestoreReport) : (reportRestore s r).capture = s.capture := rfl
@[simp] theorem reportRestore_hold (s : State) (r : RestoreReport) : (reportRestore s r).hold = s.hold := rfl
@[simp] theorem reportRestore_restore (s : State) (r : RestoreReport) :
    (reportRestore s r).restore = { s.restore with report := some r } := rfl
@[simp] theorem reportRestore_ulink (s : State) (r : RestoreReport) : (reportRestore s r).ulink = s.ulink := rfl
@[simp] theorem reportRestore_dlink (s : State) (r : RestoreReport) : (reportRestore s r).dlink = s.dlink := rfl
@[simp] theorem reportRestore_cmd (s : State) (r : RestoreReport) : (reportRestore s r).cmd = s.cmd := rfl
@[simp] theorem reportRestore_status (s : State) (r : RestoreReport) : (reportRestore s r).status = s.status := rfl
@[simp] theorem reportRestore_notice (s : State) (r : RestoreReport) : (reportRestore s r).notice = s.notice := rfl
@[simp] theorem reportRestore_resetAsserted (s : State) (r : RestoreReport) :
    (reportRestore s r).resetAsserted = s.resetAsserted := rfl
@[simp] theorem reportRestore_pending (s : State) (r : RestoreReport) : (reportRestore s r).pending = s.pending := rfl
@[simp] theorem reportRestore_serial (s : State) (r : RestoreReport) : (reportRestore s r).serial = s.serial := rfl

@[simp] theorem writeFrame_mgmt (s : State) :
    (writeFrame s).mgmt = { s.mgmt with dout := List.replicate 32 false } := rfl
@[simp] theorem writeFrame_windows (s : State) : (writeFrame s).windows = s.windows := rfl
@[simp] theorem writeFrame_epoch (s : State) : (writeFrame s).epoch = s.epoch := rfl
@[simp] theorem writeFrame_journal (s : State) : (writeFrame s).journal = s.journal := rfl
@[simp] theorem writeFrame_capture (s : State) : (writeFrame s).capture = s.capture := rfl
@[simp] theorem writeFrame_hold (s : State) : (writeFrame s).hold = s.hold := rfl
@[simp] theorem writeFrame_restore (s : State) : (writeFrame s).restore = s.restore := rfl
@[simp] theorem writeFrame_ulink (s : State) : (writeFrame s).ulink = s.ulink := rfl
@[simp] theorem writeFrame_dlink (s : State) : (writeFrame s).dlink = s.dlink := rfl
@[simp] theorem writeFrame_cmd (s : State) : (writeFrame s).cmd = s.cmd := rfl
@[simp] theorem writeFrame_status (s : State) : (writeFrame s).status = s.status := rfl
@[simp] theorem writeFrame_notice (s : State) : (writeFrame s).notice = s.notice := rfl
@[simp] theorem writeFrame_resetAsserted (s : State) : (writeFrame s).resetAsserted = s.resetAsserted := rfl
@[simp] theorem writeFrame_pending (s : State) : (writeFrame s).pending = s.pending := rfl
@[simp] theorem writeFrame_serial (s : State) : (writeFrame s).serial = s.serial := rfl

@[simp] theorem drive_mgmt (s : State) (b : Bool) : (drive s b).mgmt = { s.mgmt with dout := s.mgmt.dout ++ [b] } := rfl
@[simp] theorem drive_windows (s : State) (b : Bool) : (drive s b).windows = s.windows := rfl
@[simp] theorem drive_epoch (s : State) (b : Bool) : (drive s b).epoch = s.epoch := rfl
@[simp] theorem drive_journal (s : State) (b : Bool) : (drive s b).journal = s.journal := rfl
@[simp] theorem drive_capture (s : State) (b : Bool) : (drive s b).capture = s.capture := rfl
@[simp] theorem drive_hold (s : State) (b : Bool) : (drive s b).hold = s.hold := rfl
@[simp] theorem drive_restore (s : State) (b : Bool) : (drive s b).restore = s.restore := rfl
@[simp] theorem drive_ulink (s : State) (b : Bool) : (drive s b).ulink = s.ulink := rfl
@[simp] theorem drive_dlink (s : State) (b : Bool) : (drive s b).dlink = s.dlink := rfl
@[simp] theorem drive_cmd (s : State) (b : Bool) : (drive s b).cmd = s.cmd := rfl
@[simp] theorem drive_status (s : State) (b : Bool) : (drive s b).status = s.status := rfl
@[simp] theorem drive_notice (s : State) (b : Bool) : (drive s b).notice = s.notice := rfl
@[simp] theorem drive_resetAsserted (s : State) (b : Bool) : (drive s b).resetAsserted = s.resetAsserted := rfl
@[simp] theorem drive_pending (s : State) (b : Bool) : (drive s b).pending = s.pending := rfl
@[simp] theorem drive_serial (s : State) (b : Bool) : (drive s b).serial = s.serial := rfl

@[simp] theorem selectFrame_mgmt (s : State) : (selectFrame s).mgmt = { s.mgmt with frame := some ⟨[], 0⟩, dout := [] } := rfl
@[simp] theorem selectFrame_windows (s : State) : (selectFrame s).windows = s.windows := rfl
@[simp] theorem selectFrame_epoch (s : State) : (selectFrame s).epoch = s.epoch := rfl
@[simp] theorem selectFrame_journal (s : State) : (selectFrame s).journal = s.journal := rfl
@[simp] theorem selectFrame_capture (s : State) : (selectFrame s).capture = s.capture := rfl
@[simp] theorem selectFrame_hold (s : State) : (selectFrame s).hold = s.hold := rfl
@[simp] theorem selectFrame_restore (s : State) : (selectFrame s).restore = s.restore := rfl
@[simp] theorem selectFrame_ulink (s : State) : (selectFrame s).ulink = s.ulink := rfl
@[simp] theorem selectFrame_dlink (s : State) : (selectFrame s).dlink = s.dlink := rfl
@[simp] theorem selectFrame_cmd (s : State) : (selectFrame s).cmd = s.cmd := rfl
@[simp] theorem selectFrame_status (s : State) : (selectFrame s).status = s.status := rfl
@[simp] theorem selectFrame_notice (s : State) : (selectFrame s).notice = s.notice := rfl
@[simp] theorem selectFrame_resetAsserted (s : State) : (selectFrame s).resetAsserted = s.resetAsserted := rfl
@[simp] theorem selectFrame_pending (s : State) : (selectFrame s).pending = s.pending := rfl
@[simp] theorem selectFrame_serial (s : State) : (selectFrame s).serial = s.serial := rfl

@[simp] theorem endFrame_mgmt (s : State) : (endFrame s).mgmt = { s.mgmt with frame := none } := rfl
@[simp] theorem endFrame_windows (s : State) : (endFrame s).windows = s.windows := rfl
@[simp] theorem endFrame_epoch (s : State) : (endFrame s).epoch = s.epoch := rfl
@[simp] theorem endFrame_journal (s : State) : (endFrame s).journal = s.journal := rfl
@[simp] theorem endFrame_capture (s : State) : (endFrame s).capture = s.capture := rfl
@[simp] theorem endFrame_hold (s : State) : (endFrame s).hold = s.hold := rfl
@[simp] theorem endFrame_restore (s : State) : (endFrame s).restore = s.restore := rfl
@[simp] theorem endFrame_ulink (s : State) : (endFrame s).ulink = s.ulink := rfl
@[simp] theorem endFrame_dlink (s : State) : (endFrame s).dlink = s.dlink := rfl
@[simp] theorem endFrame_cmd (s : State) : (endFrame s).cmd = s.cmd := rfl
@[simp] theorem endFrame_status (s : State) : (endFrame s).status = s.status := rfl
@[simp] theorem endFrame_notice (s : State) : (endFrame s).notice = s.notice := rfl
@[simp] theorem endFrame_resetAsserted (s : State) : (endFrame s).resetAsserted = s.resetAsserted := rfl
@[simp] theorem endFrame_pending (s : State) : (endFrame s).pending = s.pending := rfl
@[simp] theorem endFrame_serial (s : State) : (endFrame s).serial = s.serial := rfl

@[simp] theorem unansweredFrame_mgmt (s : State) (n : Nat) : (unansweredFrame s n).mgmt = { s.mgmt with dout := List.replicate n false } := rfl
@[simp] theorem unansweredFrame_windows (s : State) (n : Nat) : (unansweredFrame s n).windows = s.windows := rfl
@[simp] theorem unansweredFrame_epoch (s : State) (n : Nat) : (unansweredFrame s n).epoch = s.epoch := rfl
@[simp] theorem unansweredFrame_journal (s : State) (n : Nat) : (unansweredFrame s n).journal = s.journal := rfl
@[simp] theorem unansweredFrame_capture (s : State) (n : Nat) : (unansweredFrame s n).capture = s.capture := rfl
@[simp] theorem unansweredFrame_hold (s : State) (n : Nat) : (unansweredFrame s n).hold = s.hold := rfl
@[simp] theorem unansweredFrame_restore (s : State) (n : Nat) : (unansweredFrame s n).restore = s.restore := rfl
@[simp] theorem unansweredFrame_ulink (s : State) (n : Nat) : (unansweredFrame s n).ulink = s.ulink := rfl
@[simp] theorem unansweredFrame_dlink (s : State) (n : Nat) : (unansweredFrame s n).dlink = s.dlink := rfl
@[simp] theorem unansweredFrame_cmd (s : State) (n : Nat) : (unansweredFrame s n).cmd = s.cmd := rfl
@[simp] theorem unansweredFrame_status (s : State) (n : Nat) : (unansweredFrame s n).status = s.status := rfl
@[simp] theorem unansweredFrame_notice (s : State) (n : Nat) : (unansweredFrame s n).notice = s.notice := rfl
@[simp] theorem unansweredFrame_resetAsserted (s : State) (n : Nat) : (unansweredFrame s n).resetAsserted = s.resetAsserted := rfl
@[simp] theorem unansweredFrame_pending (s : State) (n : Nat) : (unansweredFrame s n).pending = s.pending := rfl
@[simp] theorem unansweredFrame_serial (s : State) (n : Nat) : (unansweredFrame s n).serial = s.serial := rfl

@[simp] theorem refuseWrite_mgmt (s : State) :
    (refuseWrite s).mgmt = { s.mgmt with fault := { s.mgmt.fault with mgmtRefused := true } } := rfl
@[simp] theorem refuseWrite_windows (s : State) : (refuseWrite s).windows = s.windows := rfl
@[simp] theorem refuseWrite_epoch (s : State) : (refuseWrite s).epoch = s.epoch := rfl
@[simp] theorem refuseWrite_journal (s : State) : (refuseWrite s).journal = s.journal := rfl
@[simp] theorem refuseWrite_capture (s : State) : (refuseWrite s).capture = s.capture := rfl
@[simp] theorem refuseWrite_hold (s : State) : (refuseWrite s).hold = s.hold := rfl
@[simp] theorem refuseWrite_restore (s : State) : (refuseWrite s).restore = s.restore := rfl
@[simp] theorem refuseWrite_ulink (s : State) : (refuseWrite s).ulink = s.ulink := rfl
@[simp] theorem refuseWrite_dlink (s : State) : (refuseWrite s).dlink = s.dlink := rfl
@[simp] theorem refuseWrite_cmd (s : State) : (refuseWrite s).cmd = s.cmd := rfl
@[simp] theorem refuseWrite_status (s : State) : (refuseWrite s).status = s.status := rfl
@[simp] theorem refuseWrite_notice (s : State) : (refuseWrite s).notice = s.notice := rfl
@[simp] theorem refuseWrite_resetAsserted (s : State) : (refuseWrite s).resetAsserted = s.resetAsserted := rfl
@[simp] theorem refuseWrite_pending (s : State) : (refuseWrite s).pending = s.pending := rfl
@[simp] theorem refuseWrite_serial (s : State) : (refuseWrite s).serial = s.serial := rfl

end Sys2Proof.Machine
end

