-- ==== Sys2Proof/Laws/Ops.lean ====
section
/-! SUPPORT. One law per shared operation: everything it can do. -/

namespace Sys2Proof.Machine

/-! ### Actions -/

theorem settle_status (s : State) : (settle s).status =
    { s.status with asked := false, requests := s.status.requests + if s.status.asked then 1 else 0 } := by
  rcases s with ⟨_, _, _, _, _, _, _, _, _, _, ⟨_, _, _, _, asked⟩, _, _, _, _⟩
  cases asked <;> rfl

/-- The end of an action changes the status writer's requests alone. -/
theorem settle_frame (s : State) : settle s = { s with status := (settle s).status } := by
  unfold settle; split <;> rfl

theorem settle_of_quiet {s : State} (h : s.status.asked = false) : settle s = s := by simp [settle, h]

theorem settle_of_asked {s : State} (h : s.status.asked = true) :
    settle s = { s with status.asked := false, status.requests := s.status.requests + 1 } := by simp [settle, h]

theorem act_of_live {s : State} (h : s.resetAsserted = false) (f : State → State) : act s f = .next (settle (f s)) := by
  simp [act, h]

theorem act_in_reset {s : State} (h : s.resetAsserted = true) (f : State → State) : act s f = .next s := by simp [act, h]

/-- An action that asks for no status update leaves its effect as the next state. -/
theorem act_quiet {s : State} (h : s.resetAsserted = false) {f : State → State} (hq : (f s).status.asked = false) :
    act s f = .next (f s) := by
  rw [act_of_live h, settle_of_quiet hq]

/-! ### Responses -/

theorem respond_of_mem {s : State} {id : Ident} (h : id ∈ s.ulink.outstanding) (k : ReqKind) (st : Status) (d : List Byte) :
    respond s k id st d =
      { s with ulink := ⟨s.ulink.outstanding.filter (fun i => i != id), s.ulink.returned ++ [⟨k, id, st, d⟩]⟩ } := by
  simp [respond, h]

theorem respond_of_not_mem {s : State} {id : Ident} (h : id ∉ s.ulink.outstanding) (k : ReqKind) (st : Status)
    (d : List Byte) : respond s k id st d = s := by simp [respond, h]

/-- A response changes the U-link port alone. -/
theorem respond_frame (s : State) (k : ReqKind) (id : Ident) (st : Status) (d : List Byte) :
    respond s k id st d = { s with ulink := (respond s k id st d).ulink } := by
  unfold respond; split <;> rfl

/-- A fresh identity that enters the outstanding set and leaves it at once leaves the set as it was. -/
theorem filter_append_self {l : List Ident} {id : Ident} (h : id ∉ l) : (l ++ [id]).filter (fun i => i != id) = l := by
  have : l.filter (fun i => i != id) = l := by
    apply List.filter_eq_self.2
    intro a ha
    have : a ≠ id := fun e => h (e ▸ ha)
    simpa using this
  simp [List.filter_append, this]

/-! ### Notices -/

/-- The test for a ring write changes the write in flight and the REPORT class alone. -/
theorem tryRingWrite_frame (s : State) : tryRingWrite s =
    { s with notice.inFlight := (tryRingWrite s).notice.inFlight, dlink.report := (tryRingWrite s).dlink.report } := by
  unfold tryRingWrite
  split
  · rfl
  · split <;> rfl

/-- A notice handed over changes the notice unit and the REPORT class alone. -/
theorem post_frame (s : State) (b : NoticeBody) : post s b =
    { s with notice := (post s b).notice, dlink.report := (post s b).dlink.report } := by
  unfold post
  split
  · rw [tryRingWrite_frame]
  · rfl

theorem post_notice (s : State) (b : NoticeBody) : (post s b).notice =
    { handOver s.mgmt.time s.notice (b, s.epoch.current) with inFlight := (post s b).notice.inFlight } := by
  unfold post handOver Config.noticeCapacity
  split
  · rw [tryRingWrite_frame]
  · rfl

theorem tryRingWrite_cons {s : State} {n : Notice} {rest : List Notice} (h : s.notice.buffer = n :: rest) :
    tryRingWrite s =
      if s.notice.ringReady then
        { readyReport s [noticeWrite s.notice n s.notice.writePos] with notice.inFlight := some s.notice.writePos }
      else s := by
  unfold tryRingWrite
  rw [h]

/-- One notice handed over: all that `post` does. -/
theorem handed_post (s : State) (b : NoticeBody) : Handed s (post s b) [(b, s.epoch.current)] := by
  unfold Handed post handOver NoticeUnit.beginsWrite Config.noticeCapacity
  by_cases hl : s.notice.buffer.length < 16
  · obtain ⟨m, more, hm⟩ : ∃ m more, s.notice.buffer ++ [⟨b, s.notice.nextSeq, s.mgmt.time, s.epoch.current⟩] = m :: more := by
      cases s.notice.buffer with
      | nil => exact ⟨_, _, rfl⟩
      | cons a l => exact ⟨_, _, rfl⟩
    have hr : ∀ n : NoticeUnit, n = { s.notice with
        buffer := s.notice.buffer ++ [⟨b, s.notice.nextSeq, s.mgmt.time, s.epoch.current⟩],
        nextSeq := s.notice.nextSeq + 1 } → n.ringReady = s.notice.ringReady := by rintro n rfl; rfl
    simp only [List.foldl_cons, List.foldl_nil, if_pos hl]
    rw [tryRingWrite_cons hm, hr _ rfl, hm]
    cases s.notice.ringReady
    · simp
    · simp [hl, readyReport]; rfl
  · simp [hl]

@[simp] theorem post_mgmt (s : State) (b : NoticeBody) : (post s b).mgmt = s.mgmt := by rw [post_frame]
@[simp] theorem post_windows (s : State) (b : NoticeBody) : (post s b).windows = s.windows := by rw [post_frame]
@[simp] theorem post_epoch (s : State) (b : NoticeBody) : (post s b).epoch = s.epoch := by rw [post_frame]
@[simp] theorem post_journal (s : State) (b : NoticeBody) : (post s b).journal = s.journal := by rw [post_frame]
@[simp] theorem post_capture (s : State) (b : NoticeBody) : (post s b).capture = s.capture := by rw [post_frame]
@[simp] theorem post_hold (s : State) (b : NoticeBody) : (post s b).hold = s.hold := by rw [post_frame]
@[simp] theorem post_restore (s : State) (b : NoticeBody) : (post s b).restore = s.restore := by rw [post_frame]
@[simp] theorem post_ulink (s : State) (b : NoticeBody) : (post s b).ulink = s.ulink := by rw [post_frame]
@[simp] theorem post_forward (s : State) (b : NoticeBody) : (post s b).dlink.forward = s.dlink.forward := by rw [post_frame]
@[simp] theorem post_captureQueue (s : State) (b : NoticeBody) : (post s b).dlink.capture = s.dlink.capture := by rw [post_frame]
@[simp] theorem post_restoreQueue (s : State) (b : NoticeBody) : (post s b).dlink.restore = s.dlink.restore := by rw [post_frame]
@[simp] theorem post_lastServed (s : State) (b : NoticeBody) : (post s b).dlink.lastServed = s.dlink.lastServed := by rw [post_frame]
@[simp] theorem post_inUse (s : State) (b : NoticeBody) : (post s b).dlink.inUse = s.dlink.inUse := by rw [post_frame]
@[simp] theorem post_issued (s : State) (b : NoticeBody) : (post s b).dlink.issued = s.dlink.issued := by rw [post_frame]
@[simp] theorem post_cmd (s : State) (b : NoticeBody) : (post s b).cmd = s.cmd := by rw [post_frame]
@[simp] theorem post_status (s : State) (b : NoticeBody) : (post s b).status = s.status := by rw [post_frame]
@[simp] theorem post_resetAsserted (s : State) (b : NoticeBody) : (post s b).resetAsserted = s.resetAsserted := by rw [post_frame]
@[simp] theorem post_pending (s : State) (b : NoticeBody) : (post s b).pending = s.pending := by rw [post_frame]
@[simp] theorem post_serial (s : State) (b : NoticeBody) : (post s b).serial = s.serial := by rw [post_frame]

theorem handOver_inFlight (time : BitVec 32) (u : NoticeUnit) (f : Option Seq) (n : NoticeBody × EpochNo) :
    handOver time { u with inFlight := f } n = { handOver time u n with inFlight := f } := by
  unfold handOver; split <;> rfl

theorem foldl_handOver_inFlight (time : BitVec 32) (u : NoticeUnit) (f : Option Seq) (ns : List (NoticeBody × EpochNo)) :
    ns.foldl (handOver time) { u with inFlight := f } = { ns.foldl (handOver time) u with inFlight := f } := by
  induction ns generalizing u with
  | nil => rfl
  | cons n ns ih => simp only [List.foldl_cons, handOver_inFlight, ih]

/-- What handing notices over changes of the notice unit. -/
theorem foldl_handOver_frame (time : BitVec 32) (u : NoticeUnit) (ns : List (NoticeBody × EpochNo)) :
    ns.foldl (handOver time) u =
      { u with buffer := (ns.foldl (handOver time) u).buffer, nextSeq := (ns.foldl (handOver time) u).nextSeq,
               overrunCount := (ns.foldl (handOver time) u).overrunCount,
               overrunTotal := (ns.foldl (handOver time) u).overrunTotal } := by
  induction ns generalizing u with
  | nil => rfl
  | cons n ns ih =>
    rw [List.foldl_cons, ih]
    unfold handOver; split <;> rfl

/-- The buffer after notices are handed over: nothing is taken out of it, a full one stays as it is, and one with room has a
notice in it. -/
theorem foldl_handOver_buffer (time : BitVec 32) (u : NoticeUnit) (ns : List (NoticeBody × EpochNo)) :
    (∃ more, (ns.foldl (handOver time) u).buffer = u.buffer ++ more) ∧
    (16 ≤ u.buffer.length → (ns.foldl (handOver time) u).buffer = u.buffer) ∧
    (ns ≠ [] → u.buffer.length < 16 → (ns.foldl (handOver time) u).buffer ≠ []) := by
  induction ns generalizing u with
  | nil => exact ⟨⟨[], by simp⟩, fun _ => rfl, fun h => absurd rfl h⟩
  | cons n ns ih =>
    obtain ⟨⟨more, h1⟩, h2, _⟩ := ih (handOver time u n)
    rw [List.foldl_cons]
    unfold handOver at h1 h2 ⊢
    split at h1
    · rename_i hl
      rw [if_pos hl] at h2 ⊢
      refine ⟨⟨_, by rw [h1, List.append_assoc]⟩, fun h => by omega, fun _ _ => by rw [h1]; simp⟩
    · rename_i hl
      rw [if_neg hl] at h2 ⊢
      exact ⟨⟨more, h1⟩, h2, fun _ h => absurd h hl⟩

/-- Notices handed over in two runs are handed over in one. -/
theorem Handed.trans {s t u : State} {ns ms : List (NoticeBody × EpochNo)} (h : Handed s t ns) (k : Handed t u ms)
    (ht : t.mgmt.time = s.mgmt.time) : Handed s u (ns ++ ms) := by
  obtain ⟨h1, h2⟩ := h
  obtain ⟨k1, k2⟩ := k
  have hf : ∀ f, ms.foldl (handOver t.mgmt.time) { ns.foldl (handOver s.mgmt.time) s.notice with inFlight := f } =
      { (ns ++ ms).foldl (handOver s.mgmt.time) s.notice with inFlight := f } := by
    intro f; rw [foldl_handOver_inFlight, ht, List.foldl_append]
  obtain ⟨_, b2, b3⟩ := foldl_handOver_buffer s.mgmt.time s.notice ns
  have b1 := (foldl_handOver_buffer s.mgmt.time (ns.foldl (handOver s.mgmt.time) s.notice) ms).1
  rw [← List.foldl_append] at b1
  have hu := foldl_handOver_frame s.mgmt.time s.notice ns
  generalize hU : ns.foldl (handOver s.mgmt.time) s.notice = U at *
  by_cases hn : ns = []
  · subst hn
    have hU' : U = s.notice := hU.symm
    subst hU'
    have ht' : t.notice = s.notice := by rw [h1]; simp [NoticeUnit.beginsWrite]
    have hr : t.dlink.report = s.dlink.report := by rw [h2]; simp [NoticeUnit.beginsWrite]
    rw [ht', ht] at k1 k2
    rw [hr] at k2
    exact ⟨k1, k2⟩
  · have hne : ns.isEmpty = false := by simpa using hn
    have hc : s.notice.beginsWrite (ns ++ ms) = s.notice.beginsWrite ns := by
      have : (ns ++ ms).isEmpty = false := by simp [hn]
      rw [NoticeUnit.beginsWrite, NoticeUnit.beginsWrite, this, hne]
    have hb : t.notice.beginsWrite ms = false := by
      unfold NoticeUnit.beginsWrite
      cases hw : s.notice.beginsWrite ns with
      | true => rw [h1, hw]; simp [NoticeUnit.ringReady]
      | false =>
        rw [h1, hw, hu]
        unfold NoticeUnit.beginsWrite at hw
        by_cases hl : s.notice.buffer.length < 16
        · have hr : s.notice.ringReady = false := by
            rw [hne] at hw
            simpa [hl] using hw
          have : NoticeUnit.ringReady { s.notice with
              buffer := U.buffer, nextSeq := U.nextSeq, overrunCount := U.overrunCount, overrunTotal := U.overrunTotal,
              inFlight := if false = true then some s.notice.writePos else s.notice.inFlight } = s.notice.ringReady := rfl
          simp only [this, hr, Bool.and_false]
        · have := b2 (by omega)
          simp [this, hl]
    have hmap : (((ns ++ ms).foldl (handOver s.mgmt.time) s.notice).buffer.take 1) = if s.notice.beginsWrite ns then U.buffer.take 1
        else ((ns ++ ms).foldl (handOver s.mgmt.time) s.notice).buffer.take 1 := by
      split
      · rename_i hw
        have hl : s.notice.buffer.length < 16 := by
          simp only [NoticeUnit.beginsWrite, Bool.and_eq_true, decide_eq_true_eq] at hw; exact hw.1.2
        obtain ⟨more, hm⟩ := b1
        rw [hm]
        have := b3 hn hl
        cases hub : U.buffer with
        | nil => exact absurd hub this
        | cons a l => simp
      · rfl
    unfold Handed
    simp only []
    rw [hc]
    constructor
    · rw [k1, hb]
      conv_lhs => rw [h1]
      simp only [hf]
      rfl
    · rw [k2, hb, h2, hmap]
      cases s.notice.beginsWrite ns <;> simp

/-- A notice handed over after others. -/
theorem Handed.post {s t : State} {ns : List (NoticeBody × EpochNo)} (h : Handed s t ns) (ht : t.mgmt.time = s.mgmt.time)
    (b : NoticeBody) : Handed s (post t b) (ns ++ [(b, t.epoch.current)]) :=
  h.trans (handed_post t b) ht

/-- Nothing is handed over where the notice unit is unchanged. -/
theorem Handed.of_eq {s t : State} (h : t.notice = s.notice) (k : t.dlink.report = s.dlink.report) : Handed s t [] := by
  simp [Handed, NoticeUnit.beginsWrite, h, k]

/-- A state and its change in items that a hand-over does not read. -/
theorem Handed.congr {s s' t t' : State} {ns : List (NoticeBody × EpochNo)} (h : Handed s t ns) (h1 : s'.notice = s.notice)
    (h2 : s'.dlink.report = s.dlink.report) (h3 : s'.mgmt.time = s.mgmt.time) (h4 : t'.notice = t.notice)
    (h5 : t'.dlink.report = t.dlink.report) : Handed s' t' ns := by
  unfold Handed at *
  rw [h1, h2, h3, h4, h5]; exact h

/-! ### The low-water test -/

/-- The low-water test changes low-water armed, the notice unit and the REPORT class alone. -/
theorem lowWaterTest_frame (s : State) : lowWaterTest s =
    { s with journal.armed := s.journal.armedAfter, notice := (lowWaterTest s).notice,
             dlink.report := (lowWaterTest s).dlink.report } := by
  unfold lowWaterTest Journal.armedAfter
  split
  · rename_i h; simp [h]
  · split
    · split
      · rw [post_frame]; rename_i h0 h1 _; simp; omega
      · rename_i h0 h1 h2
        rcases s with ⟨_, _, _, ⟨_, _, _, _, _, _, _, armed⟩, _, _, _, _, _, _, _, _, _, _, _⟩
        simp at h2 h0 h1 ⊢; subst h2; simp; omega
    · rename_i h0 h1; simp; omega

theorem lowWaterTest_handed (s : State) : Handed s (lowWaterTest s) (s.journal.lowNotices s.epoch.current) := by
  unfold lowWaterTest Journal.lowNotices
  by_cases h0 : s.journal.lwm = 0
  · rw [if_pos h0, if_neg (fun h => h.1 h0)]; exact Handed.of_eq rfl rfl
  · by_cases h1 : s.journal.free ≤ s.journal.lwm
    · by_cases h2 : s.journal.armed = true
      · rw [if_neg h0, if_pos h1, if_pos h2, if_pos ⟨h0, h1, h2⟩]
        exact handed_post { s with journal.armed := false } _
      · rw [if_neg h0, if_pos h1, if_neg h2, if_neg (fun h => h2 h.2.2)]; exact Handed.of_eq rfl rfl
    · rw [if_neg h0, if_neg h1, if_neg (fun h => h1 h.2.1)]; exact Handed.of_eq rfl rfl

/-! ### Answers -/

/-- The origin of an identity in use takes its answer, after the identity is free. -/
theorem takeAnswer_eq {s : State} {id : Ident} {o : Origin} {f : Origin → State → Option State} {t : State}
    (ho : s.dlink.originOf id = some o) (hn : o ≠ .abandoned) (hf : f o (freeIdent s id) = some t) :
    takeAnswer s id f = t := by
  unfold takeAnswer
  rw [ho]
  cases o <;> first | exact absurd rfl hn | simp [hf]

theorem takeAnswer_unused {s : State} {id : Ident} (h : s.dlink.originOf id = none) (f : Origin → State → Option State) :
    takeAnswer s id f = s := by simp [takeAnswer, h]

theorem takeAnswer_abandoned {s : State} {id : Ident} (h : s.dlink.originOf id = some .abandoned)
    (f : Origin → State → Option State) : takeAnswer s id f = freeIdent s id := by simp [takeAnswer, h]

/-! ### The drain -/

/-- Outside DRAINING the drain test does nothing. -/
theorem drainTest_of_ne {s : State} (h : s.epoch.engine ≠ .draining) : drainTest s = s := by simp [drainTest, h]

/-- A drain goes on while a slot is busy or a record is not complete. -/
theorem drainTest_waiting {s : State} (h : s.capture.noneBusy = false ∨ s.journal.frontier ≠ s.journal.head) :
    drainTest s = s := by
  rcases h with h | h <;> simp [drainTest, h]

theorem freeSlot_of_ne {s : State} (i : Fin 8) (h : s.epoch.engine ≠ .draining) :
    freeSlot s i = { setSlot s i none with hold.passes := s.hold.passes + 1 } := by
  unfold freeSlot
  rw [drainTest_of_ne (by simpa using h)]
  rfl

/-! ### Breaking -/

theorem breakEngine_handed (s : State) (c : BrokenCause) :
    Handed s (breakEngine s c) [(.epochBroken c s.epoch.current, s.epoch.current)] :=
  handed_post
    { s with epoch :=
      { s.epoch with engine := .broken c,
                     target := if (Engine.broken c).brokenRetryable then s.epoch.target else none } } _

/-- Going BROKEN changes the engine, the target, the hold queue's passes, the notice unit and the request for a status block. -/
theorem enterBroken_frame (s : State) (c : BrokenCause) : enterBroken s c =
    { s with epoch.engine := .broken c,
             epoch.target := if (Engine.broken c).brokenRetryable then s.epoch.target else none,
             hold.passes := s.hold.passes + 1, status.asked := true, notice := (enterBroken s c).notice,
             dlink.report := (enterBroken s c).dlink.report } := by
  unfold enterBroken breakEngine
  simp only [askStatus]
  rw [post_frame]

theorem enterBroken_handed (s : State) (c : BrokenCause) :
    Handed s (enterBroken s c) [(.epochBroken c s.epoch.current, s.epoch.current)] := breakEngine_handed s c

/-! ### Commands -/

/-- The oldest command of the queue is taken, if it is the one the event names. -/
theorem takeCommand_eq {s : State} {q : QueuedCommand} {rest : List QueuedCommand} {isIt : Byte → Bool} (rule : Rule)
    (hq : s.cmd.queue = q :: rest) (hd : s.mgmt.device ≠ .offline) (hi : isIt q.opcode = true) :
    takeCommand s isIt rule = applyRule rule q { s with cmd.queue := rest } := by
  simp [takeCommand, hq, hd, hi]

theorem applyRule_refused {rule : Rule} {q : QueuedCommand} {s : State} (h : (rule.judge s q.args).accepted = false) :
    applyRule rule q s = answer s q (rule.judge s q.args) := by simp [applyRule, h]

theorem applyRule_accepted {rule : Rule} {q : QueuedCommand} {s : State} (h : (rule.judge s q.args).accepted = true) :
    applyRule rule q s = rule.after (answer (rule.change s q.args) q (rule.judge s q.args)) q.args := by simp [applyRule, h]

/-- The answer to a command, but for an accepted NOTICE_ACK, changes the command unit's record, the notice unit and the request
for a status block. -/
theorem answer_frame (s : State) (q : QueuedCommand) (r : Result) : answer s q r =
    { s with cmd.taken := s.cmd.taken + 1, cmd.last := some ⟨q.tag, q.opcode, r⟩, status.asked := true,
             notice := (answer s q r).notice, dlink.report := (answer s q r).dlink.report } := by
  unfold answer
  split
  · rfl
  · simp only [askStatus]; rw [post_frame]

theorem answer_handed {s : State} {q : QueuedCommand} {r : Result}
    (h : ¬ (q.opcode = Opcode.noticeAck.code ∧ r.accepted = true)) :
    Handed s (answer s q r) [(.commandDone q.tag q.opcode r, s.epoch.current)] := by
  simp only [answer, if_neg h]
  exact handed_post { s with cmd.taken := s.cmd.taken + 1, cmd.last := some ⟨q.tag, q.opcode, r⟩ } _

end Sys2Proof.Machine
end

