-- ==== Sys2Proof/Laws/Links.lean ====
section
/-! SUPPORT. Laws of placement and classification (R26, R34), and of the port (R127, R128). -/

namespace Sys2Proof.Machine

theorem formOk_iff (r : Request) :
    formOk r = true ↔ 1 ≤ r.length ∧ r.length ≤ 64 ∧ r.addr.toNat % 64 + r.length ≤ 64 := by
  unfold formOk lineOffset
  exact decide_eq_true_iff

/-- The window found holds the address. -/
theorem windowAt_some {ws : Vector Window 16} {a : Addr} {w : Fin 16} (h : windowAt ws a = some w) :
    holdsOpt ws[w].area? a = true := by
  unfold windowAt at h
  have := List.find?_some h
  exact this

theorem windowAt_none_iff {ws : Vector Window 16} {a : Addr} :
    windowAt ws a = none ↔ ∀ w : Fin 16, holdsOpt ws[w].area? a = false := by
  unfold windowAt
  rw [List.find?_eq_none]
  constructor
  · intro h w
    have hw : w ∈ ([0, 1, 2, 3, 4, 5, 6, 7, 8, 9, 10, 11, 12, 13, 14, 15] : List (Fin 16)) := by revert w; decide
    simpa [holdsOpt] using h w hw
  · intro h w _
    simpa [holdsOpt] using h w

/-- An area that holds an address shares none with an area apart from it. -/
theorem not_holds_of_apart {a b : Option Area} {x : Addr} (h : Apart a b) (ha : holdsOpt a x = true) :
    holdsOpt b x = false := by
  unfold holdsOpt at *
  cases a with
  | none => simp at ha
  | some p =>
    cases b with
    | none => simp
    | some q =>
      have := h p q rfl rfl x.toNat
      simp at ha ⊢
      simpa [ha] using this

/-- An address lies in at most one window (R26). -/
theorem windowAt_of_holds {s : State} (hd : AreasDisjoint s) {a : Addr} {w : Fin 16}
    (h : holdsOpt s.windows[w].area? a = true) : windowAt s.windows a = some w := by
  cases hk : windowAt s.windows a with
  | none => exact absurd (h.symm.trans (windowAt_none_iff.1 hk w)) (by decide)
  | some k =>
    by_cases e : k = w
    · rw [e]
    · exact absurd (h.symm.trans (not_holds_of_apart (hd.1 k w e) (windowAt_some hk))) (by decide)

theorem Apart.symm {a b : Option Area} (h : Apart a b) : Apart b a := fun x y hx hy n hn => h y x hy hx n ⟨hn.2, hn.1⟩

/-- A request of a window, outside the notice area, follows the window's path (R34). -/
theorem classify_window {s : State} {r : Request} {w : Fin 16} (hd : AreasDisjoint s) (ho : s.mgmt.device ≠ .offline)
    (ht : touches r s.noticeArea? = false) (h : holdsOpt s.windows[w].area? r.addr = true) :
    classify s r = windowPath s r.kind w := by
  simp [classify, ho, ht, windowAt_of_holds hd h]

/-- A request of the command window, outside the notice area (R34, R37). -/
theorem classify_command {s : State} {r : Request} (hd : AreasDisjoint s) (ht : touches r s.noticeArea? = false)
    (h : holdsOpt s.commandArea? r.addr = true) : classify s r = commandPath s r := by
  have ho : s.mgmt.device ≠ .offline := by
    intro e; simp [State.commandArea?, e, holdsOpt] at h
  have hw : windowAt s.windows r.addr = none :=
    windowAt_none_iff.2 fun w => not_holds_of_apart (hd.2.1 w).1.symm h
  simp [classify, ho, ht, hw, h]

/-- A request of the journal area, outside the notice area (R34, R39). -/
theorem classify_journal {s : State} {r : Request} (hd : AreasDisjoint s) (ht : touches r s.noticeArea? = false)
    (h : holdsOpt s.journalArea? r.addr = true) : classify s r = protectedPath r.kind := by
  have ho : s.mgmt.device ≠ .offline := by
    intro e; simp [State.journalArea?, e, holdsOpt] at h
  have hw : windowAt s.windows r.addr = none :=
    windowAt_none_iff.2 fun w => not_holds_of_apart (hd.2.1 w).2.1.symm h
  have hc : holdsOpt s.commandArea? r.addr = false := not_holds_of_apart hd.2.2.1.symm h
  simp [classify, ho, ht, hw, hc, h]

/-- Taking a request into the outstanding set does not change its path. -/
theorem classify_outstanding (s : State) (r : Request) (l : List Ident) :
    classify { s with ulink.outstanding := l } r = classify s r := rfl

/-- A well-formed request with a fresh identity is sent down its path (R127, R128). -/
theorem takeRequest_fresh {s : State} {r : Request} (hf : formOk r = true) (hn : r.id ∉ s.ulink.outstanding) :
    takeRequest s r =
      followPath { s with ulink.outstanding := s.ulink.outstanding ++ [r.id] } r (classify s r) := by
  simp [takeRequest, hf, hn, classify_outstanding]

end Sys2Proof.Machine
end

