-- ==== Sys2Proof/Laws/Capture.lean ====
section
/-! SUPPORT. Laws of the capture unit: the checks of R42 to R45, allocation (R51) and slots. -/

namespace Sys2Proof.Machine

/-! ### What the checks look at -/

theorem mem_slots_iff {v : Vector (Option CaptureSlot) 8} {o : Option CaptureSlot} :
    o ∈ v.toList ↔ ∃ i : Fin 8, v[i] = o := by
  rw [List.mem_iff_getElem]
  constructor
  · rintro ⟨n, hn, h⟩
    have hn8 : n < 8 := by simpa using hn
    exact ⟨⟨n, hn8⟩, by simpa using h⟩
  · rintro ⟨i, h⟩
    exact ⟨i.val, by simp, by simpa using h⟩

theorem holdsGranule_iff (c : Capture) (g : Granule) :
    c.holdsGranule g = true ↔ ∃ (i : Fin 8) (x : CaptureSlot), c.slots[i] = some x ∧ x.granule = g := by
  unfold Capture.holdsGranule
  rw [List.any_eq_true]
  constructor
  · rintro ⟨o, ho, h⟩
    obtain ⟨i, hi⟩ := mem_slots_iff.1 ho
    cases o with
    | none => simp at h
    | some x => exact ⟨i, x, hi, by simpa using h⟩
  · rintro ⟨i, x, hi, hg⟩
    exact ⟨some x, mem_slots_iff.2 ⟨i, hi⟩, by simpa using hg⟩

theorem Hold.holdsGranule_iff (h : Hold) (g : Granule) :
    h.holdsGranule g = true ↔ ∃ e ∈ h.entries, granuleOf e.request.addr = g := by
  unfold Hold.holdsGranule HeldEntry.granule
  simp

theorem noneBusy_iff (c : Capture) : c.noneBusy = true ↔ ∀ i : Fin 8, c.slots[i] = none := by
  unfold Capture.noneBusy
  rw [List.all_eq_true]
  constructor
  · intro h i
    have := h c.slots[i] (mem_slots_iff.2 ⟨i, rfl⟩)
    simpa using this
  · intro h o ho
    obtain ⟨i, hi⟩ := mem_slots_iff.1 ho
    rw [← hi, h i]; rfl

theorem mem_allSlots (i : Fin 8) : i ∈ allSlots := by revert i; decide

theorem freeSlot?_some {c : Capture} {i : Fin 8} (h : c.freeSlot? = some i) : c.slots[i] = none := by
  have := List.find?_some h
  simpa [Capture.slot?] using this

theorem freeSlot?_none_iff {c : Capture} : c.freeSlot? = none ↔ ∀ i : Fin 8, c.slots[i] ≠ none := by
  unfold Capture.freeSlot?
  rw [List.find?_eq_none]
  constructor
  · intro h i e
    exact h i (mem_allSlots i) (by simpa [Capture.slot?] using e)
  · intro h i _ e
    exact h i (by simpa [Capture.slot?] using e)

/-- No journal slot is free exactly when head is N or more above release. -/
theorem free_eq_zero_iff (j : Journal) : j.free = 0 ↔ j.slots ≤ (j.head - j.release).toNat := by
  unfold Journal.free Journal.dist; omega

/-- A slot awaits an answer in a phase. -/
theorem slotIn_some_iff {c : Capture} {i : Fin 8} {p : Phase} {k : SlotKind} {x : CaptureSlot} :
    c.slotIn i p k = some x ↔ c.slots[i] = some x ∧ x.phase = p ∧ x.kind = k := by
  unfold Capture.slotIn Capture.slot?
  rw [Option.filter_eq_some_iff]
  simp

/-! ### Slots -/

theorem setSlot_self (s : State) (i : Fin 8) (c : Option CaptureSlot) : (setSlot s i c).capture.slots[i] = c := by
  simp [setSlot]

theorem setSlot_other (s : State) {i j : Fin 8} (c : Option CaptureSlot) (h : j ≠ i) :
    (setSlot s i c).capture.slots[j] = s.capture.slots[j] := by
  have : i.val ≠ j.val := fun e => h (Fin.ext e.symm)
  simp [setSlot, this]

/-! ### Allocation (R51) -/

/-- What allocation changes. -/
theorem allocate_frame (s : State) (r : Request) (w : Fin 16) (i : Fin 8) : allocate s r w i =
    { s with
      capture.slots := (setSlot s i (some (newSlot s r w))).capture.slots
      capture.table := if 2048 ≤ s.capture.table.length then s.capture.table else s.capture.table ++ [granuleOf r.addr]
      epoch.allocReports := s.epoch.allocReports ++ [⟨s.epoch.current, decide (2048 ≤ s.capture.table.length)⟩]
      journal := { s.journal with
        head := s.journal.head + 1
        armed := ({ s.journal with head := s.journal.head + 1 } : Journal).armedAfter }
      notice := (allocate s r w i).notice
      dlink.report := (allocate s r w i).dlink.report } := by
  unfold allocate
  simp only
  rw [lowWaterTest_frame]
  by_cases hc : 2048 ≤ s.capture.table.length <;> simp [newSlot, Config.tableCapacity, setSlot, hc]

theorem allocate_handed (s : State) (r : Request) (w : Fin 16) (i : Fin 8) : Handed s (allocate s r w i)
    (({ s.journal with head := s.journal.head + 1 } : Journal).lowNotices s.epoch.current) := by
  unfold allocate
  exact lowWaterTest_handed
    { setSlot s i (some (newSlot s r w)) with
      journal.head := s.journal.head + 1
      capture.table := if (newSlot s r w).spilled then s.capture.table else s.capture.table ++ [(newSlot s r w).granule]
      epoch.allocReports := s.epoch.allocReports ++ [⟨(newSlot s r w).epoch, (newSlot s r w).spilled⟩] }

end Sys2Proof.Machine
end

