-- ==== Sys2Proof/Laws/Journal.lean ====
section
/-! SUPPORT. Laws of completion (R71, R72), of a slot's release (R55) and of journal write faults (R59, R60). -/

namespace Sys2Proof.Machine

/-- The frontier passes the sequences of the set that follow without a gap, and leaves the others in it. -/
theorem absorb_spec (fuel : Nat) (f : Seq) (set : List Seq) (h : set.length ≤ fuel) :
    ∃ n : Nat, (∀ i < n, f + BitVec.ofNat 32 i ∈ set) ∧ f + BitVec.ofNat 32 n ∉ (absorb fuel f set).2 ∧
      absorb fuel f set =
        (f + BitVec.ofNat 32 n, set.filter (fun x => decide (∀ i < n, x ≠ f + BitVec.ofNat 32 i))) := by
  induction fuel generalizing f set with
  | zero =>
    have : set = [] := List.length_eq_zero_iff.1 (Nat.le_zero.1 h)
    subst this
    exact ⟨0, by simp, by simp [absorb], by simp [absorb]⟩
  | succ fuel ih =>
    by_cases hf : f ∈ set
    · have hl : (set.filter (fun q => q != f)).length ≤ fuel := by
        have : (set.filter (fun q => q != f)).length < set.length := by
          rw [List.length_filter_lt_length_iff_exists]
          exact ⟨f, hf, by simp⟩
        omega
      obtain ⟨n, h1, h2, h3⟩ := ih (f + 1) (set.filter (fun q => q != f)) hl
      have hs : ∀ i : Nat, f + 1 + BitVec.ofNat 32 i = f + BitVec.ofNat 32 (i + 1) := by
        intro i
        rw [BitVec.add_assoc]
        congr 1
        rw [BitVec.ofNat_add, BitVec.add_comm]
        rfl
      refine ⟨n + 1, ?_, ?_, ?_⟩
      · intro i hi
        cases i with
        | zero => simpa using hf
        | succ i =>
          have := h1 i (by omega)
          rw [hs] at this
          exact (List.mem_filter.1 this).1
      · simp only [absorb, hf, if_true, ← hs]
        exact h2
      · simp only [absorb, hf, if_true, h3, hs, List.filter_filter]
        congr 1
        apply List.filter_congr
        intro x _
        rw [Bool.eq_iff_iff]
        simp only [Bool.and_eq_true, decide_eq_true_eq, bne_iff_ne, ne_eq]
        constructor
        · rintro ⟨a, b⟩ i hi
          cases i with
          | zero => simpa using b
          | succ i => exact a i (by omega)
        · intro a
          exact ⟨fun i hi => a (i + 1) (by omega), by simpa using a 0 (by omega)⟩
    · refine ⟨0, by simp, ?_, ?_⟩
      · simp [absorb, hf]
      · simp only [absorb, hf, if_false, BitVec.ofNat_eq_ofNat, BitVec.add_zero, Nat.not_lt_zero, false_implies, implies_true,
          decide_true]
        rw [List.filter_eq_self.2 (fun _ _ => rfl)]

/-- A completion report ends no drain while the engine is not DRAINING or a capture slot is busy. -/
theorem complete_noDrain {s : State} (q : Seq) (h : s.epoch.engine ≠ .draining ∨ s.capture.noneBusy = false) :
    complete s q =
      if q = s.journal.frontier then
        { s with journal.frontier := (absorb s.journal.completed.length (q + 1) s.journal.completed).1,
                 journal.completed := (absorb s.journal.completed.length (q + 1) s.journal.completed).2,
                 epoch.advances :=
                   s.epoch.advances ++ [(absorb s.journal.completed.length (q + 1) s.journal.completed).1] }
      else { s with journal.completed := s.journal.completed ++ [q] } := by
  unfold complete
  split
  · rcases h with h | h
    · exact drainTest_of_ne h
    · exact drainTest_waiting (Or.inl h)
  · rfl

/-- What a completion report does while no drain ends in it. -/
theorem complete_eq {s : State} (q : Seq) (h : s.epoch.engine ≠ .draining ∨ s.capture.noneBusy = false) :
    complete s q =
      { s with journal := (complete s q).journal,
               epoch.advances := s.epoch.advances ++ (if q = s.journal.frontier then [(complete s q).journal.frontier] else []) } := by
  rw [complete_noDrain q h]
  by_cases hq : q = s.journal.frontier <;> simp [hq]

/-- A completion report is taken by the journal unit as R71 and R72 say. -/
theorem complete_journal {s : State} (q : Seq) (h : s.epoch.engine ≠ .draining ∨ s.capture.noneBusy = false) :
    Completed q s.journal (complete s q).journal := by
  rw [complete_noDrain q h]
  unfold Completed
  by_cases hq : q = s.journal.frontier
  · rw [if_pos hq, if_pos hq]
    obtain ⟨n, h1, h2, h3⟩ := absorb_spec s.journal.completed.length (q + 1) s.journal.completed (Nat.le_refl _)
    refine ⟨n, h1, h2, ?_⟩
    simp only [h3]
  · rw [if_neg hq, if_neg hq]

/-- A busy slot other than `i` stays busy when slot `i` is changed. -/
theorem noneBusy_of_busy {c : Capture} {j : Fin 8} (h : c.slots[j] ≠ none) : c.noneBusy = false := by
  apply Bool.eq_false_iff.2
  intro e
  exact h ((noneBusy_iff c).1 e j)

/-- A slot becomes free while no drain ends by it (R55). -/
theorem freeSlot_eq {s : State} {i : Fin 8}
    (h : s.epoch.engine ≠ .draining ∨ s.journal.frontier ≠ s.journal.head ∨ ∃ j : Fin 8, j ≠ i ∧ s.capture.slots[j] ≠ none) :
    freeSlot s i = { setSlot s i none with hold.passes := s.hold.passes + 1 } := by
  unfold freeSlot
  rcases h with h | h | ⟨j, hj, hb⟩
  · rw [drainTest_of_ne (by simpa using h)]; rfl
  · rw [drainTest_waiting (Or.inr (by simpa using h))]; rfl
  · rw [drainTest_waiting (Or.inl _)]
    · rfl
    · refine noneBusy_of_busy (j := j) ?_
      show (setSlot s i none).capture.slots[j] ≠ none
      rw [setSlot_other s none hj]; exact hb

/-- What a journal write fault does in each engine state (R3, R4). -/
theorem journalWriteFault_eq (s : State) : journalWriteFault s =
    if s.epoch.engine = .capturing ∨ s.epoch.engine = .draining then enterBroken s .journalFault else s := by
  unfold journalWriteFault
  cases h : s.epoch.engine <;> simp

end Sys2Proof.Machine
end

