-- ==== Sys2Proof/Laws/Walk.lean ====
section
/-! SUPPORT. Laws of frontier advances (R12), of the start of a walk (R108) and of the completion of a rollback (R114, R75). -/

namespace Sys2Proof.Machine

/-! ### Frontier advances -/

/-- The notice that an entry which closes posts (R12). -/
def IndexEntry.closeNotice? (current : EpochNo) (e : IndexEntry) : Option (NoticeBody × EpochNo) :=
  match e.marker, e.origin with
  | some m, some o => some (.epochCommitted e.number m e.recordCount o, current)
  | _, _ => none

/-- An entry that closes is reported by its notice and a request for a status block. -/
theorem reportClose_eq (s : State) (e : IndexEntry) : reportClose s e =
    match e.closeNotice? s.epoch.current with
    | some n => askStatus (post s n.1)
    | none => s := by
  unfold reportClose IndexEntry.closeNotice?
  cases e.marker <;> cases e.origin <;> rfl

theorem IndexEntry.closeNotice?_epoch {c : EpochNo} {e : IndexEntry} {n : NoticeBody × EpochNo}
    (h : e.closeNotice? c = some n) : n.2 = c := by
  unfold IndexEntry.closeNotice? at h
  cases hm : e.marker <;> cases ho : e.origin <;> simp [hm, ho] at h
  rw [← h]

/-- Reporting entries that close changes the notice unit, the REPORT class and the request for a status block alone. -/
theorem foldl_reportClose_frame (es : List IndexEntry) (s : State) : es.foldl reportClose s =
    { s with notice := (es.foldl reportClose s).notice, dlink.report := (es.foldl reportClose s).dlink.report,
             status.asked := (es.foldl reportClose s).status.asked } := by
  induction es generalizing s with
  | nil => rfl
  | cons e es ih =>
    rw [List.foldl_cons, ih, reportClose_eq]
    cases e.closeNotice? s.epoch.current with
    | none => rfl
    | some n => simp only [askStatus]; rw [post_frame]

theorem foldl_reportClose_handed (es : List IndexEntry) (s : State) :
    Handed s (es.foldl reportClose s) (es.filterMap (IndexEntry.closeNotice? s.epoch.current)) := by
  induction es generalizing s with
  | nil => exact Handed.of_eq rfl rfl
  | cons e es ih =>
    rw [List.foldl_cons, List.filterMap_cons, reportClose_eq]
    cases h : e.closeNotice? s.epoch.current with
    | none => exact ih s
    | some n =>
      have hp : Handed s (askStatus (post s n.1)) [n] := by
        have := handed_post s n.1
        rw [← IndexEntry.closeNotice?_epoch h] at this
        exact this
      have := hp.trans (ih (askStatus (post s n.1))) (by simp)
      simpa using this

theorem foldl_reportClose_asked (es : List IndexEntry) (s : State) : (es.foldl reportClose s).status.asked =
    (s.status.asked || es.any (fun e => (e.closeNotice? s.epoch.current).isSome)) := by
  induction es generalizing s with
  | nil => simp
  | cons e es ih =>
    rw [List.foldl_cons, ih, List.any_cons, reportClose_eq]
    cases h : e.closeNotice? s.epoch.current with
    | none => simp
    | some n => simp [askStatus]

theorem takeAdvances_nil {s : State} (h : s.epoch.advances = []) : takeAdvances s = s := by
  unfold takeAdvances; rw [h]; simp only [List.foldl_nil]; rw [← h]

/-! ### Counts -/

/-- Taking allocation reports changes the two counts and the reports alone (R7). -/
theorem countAllocations_frame (s : State) : ∃ a b, countAllocations s =
    { s with epoch.captureCount := a, epoch.spillCount := b, epoch.allocReports := [] } := by
  have : ∀ (l : List AllocReport) (c : EpochController), ∃ a b,
      l.foldl countAllocation c = { c with captureCount := a, spillCount := b } := by
    intro l
    induction l with
    | nil => exact fun c => ⟨_, _, rfl⟩
    | cons x l ih =>
      intro c
      rw [List.foldl_cons]
      by_cases hx : x.epoch = c.current
      · rw [countAllocation, if_pos hx]
        obtain ⟨a, b, h⟩ := ih
          { c with captureCount := satSucc c.captureCount,
                   spillCount := if x.spilled then satSucc c.spillCount else c.spillCount }
        exact ⟨a, b, h⟩
      · rw [countAllocation, if_neg hx]; exact ih c
  obtain ⟨a, b, h⟩ := this s.epoch.allocReports s.epoch
  exact ⟨a, b, by unfold countAllocations; rw [h]⟩

/-! ### The walk -/

theorem targetFirst_eq {s : State} {n : EpochNo} {e : IndexEntry} (ht : s.epoch.target = some n)
    (he : s.epoch.entry? n = some e) : targetFirst s = e.first := by simp [targetFirst, ht, he]

/-- The walk starts at head − 1 when there is a record to walk (R108). -/
theorem startWalk_walk {s : State} {f : Seq} (hf : targetFirst s = f) (hh : s.journal.head ≠ f) : startWalk s =
    readRecord { s with restore := { s.restore with
      floor := f, applied := 0, abortPending := false, report := none, cursor := s.journal.head - 1 } } := by
  subst hf; unfold startWalk; simp only []; rw [if_neg hh]

/-- An empty range ends in the action that begins the walk (R108, R120). -/
theorem startWalk_empty {s : State} {f : Seq} (hf : targetFirst s = f) (hh : s.journal.head = f) : startWalk s =
    completeRollback { s with restore := { s.restore with
      floor := f, applied := 0, abortPending := false, report := none, cursor := f, phase := .idle } } := by
  subst hf; unfold startWalk; simp only []; rw [if_pos hh]

/-- What the completion of a rollback changes (R114, R75). -/
theorem completeRollback_frame {s : State} {n : EpochNo} {e : IndexEntry} (ht : s.epoch.target = some n)
    (he : s.epoch.entry? n = some e) :
    let number := nextNumber s.epoch.current ((olderThan s.epoch.index n).map (fun x => x.number))
    let moved : Journal := { s.journal with head := e.first, frontier := e.first }
    completeRollback s =
      { s with journal := { moved with armed := moved.armedAfter },
               epoch := { s.epoch with
                 engine := .capturing, current := number, captureCount := 0, spillCount := 0, target := none,
                 allocReports := [],
                 index := olderThan s.epoch.index n ++ [⟨number, e.first, none, .opened, 0, none⟩] },
               capture.table := [], hold.passes := s.hold.passes + 1, status.asked := true,
               notice := (completeRollback s).notice, dlink.report := (completeRollback s).dlink.report } := by
  intro number moved
  unfold completeRollback
  simp only [ht, Option.getD_some, targetFirst_eq ht he]
  rw [lowWaterTest_frame, post_frame]
  obtain ⟨a, b, h⟩ := countAllocations_frame s
  rw [h]
  rfl

theorem completeRollback_handed {s : State} {n : EpochNo} {e : IndexEntry} (ht : s.epoch.target = some n)
    (he : s.epoch.entry? n = some e) :
    let number := nextNumber s.epoch.current ((olderThan s.epoch.index n).map (fun x => x.number))
    Handed s (completeRollback s) ((.epochRolledBack n number s.restore.applied, number) ::
      ({ s.journal with head := e.first, frontier := e.first } : Journal).lowNotices number) := by
  intro number
  unfold completeRollback
  simp only [ht, Option.getD_some, targetFirst_eq ht he]
  let t := setEngine { countAllocations s with
    journal.head := e.first
    journal.frontier := e.first
    epoch.index := olderThan s.epoch.index n ++ [⟨number, e.first, none, .opened, 0, none⟩]
    epoch.current := number
    epoch.captureCount := 0
    epoch.spillCount := 0
    epoch.target := none
    capture.table := [] } .capturing
  have h1 : Handed s (post t (.epochRolledBack n number s.restore.applied))
      [(.epochRolledBack n number s.restore.applied, number)] := handed_post t _
  have h2 := lowWaterTest_handed (post t (.epochRolledBack n number s.restore.applied))
  rw [post_journal, post_epoch] at h2
  exact h1.trans h2 (by rw [post_mgmt]; rfl)

end Sys2Proof.Machine
end

