-- ==== Sys2Proof/Laws/Epoch.lean ====
section
/-! SUPPORT. Laws of epoch numbers (R5) and of the order of the index. -/

namespace Sys2Proof.Machine

/-- Stepping a candidate stops at the first number that is neither 0 nor taken, if the fuel lasts. -/
theorem stepNumber_spec (taken : List EpochNo) (fuel : Nat) (n : EpochNo) :
    ∃ k ≤ fuel, stepNumber taken fuel n = n + BitVec.ofNat 32 k ∧
      (∀ i < k, n + BitVec.ofNat 32 i = 0 ∨ n + BitVec.ofNat 32 i ∈ taken) ∧
      (k < fuel → ¬ (n + BitVec.ofNat 32 k = 0 ∨ n + BitVec.ofNat 32 k ∈ taken)) := by
  induction fuel generalizing n with
  | zero => exact ⟨0, Nat.le_refl _, by simp [stepNumber], by simp, by simp⟩
  | succ fuel ih =>
    by_cases h : n = 0 ∨ n ∈ taken
    · obtain ⟨k, hk, h1, h2, h3⟩ := ih (n + 1)
      have hs : ∀ i : Nat, n + 1 + BitVec.ofNat 32 i = n + BitVec.ofNat 32 (i + 1) := by
        intro i
        rw [BitVec.add_assoc]
        congr 1
        rw [BitVec.ofNat_add, BitVec.add_comm]
        rfl
      refine ⟨k + 1, by omega, ?_, ?_, ?_⟩
      · unfold stepNumber
        rw [if_pos h, h1, hs]
      · intro i hi
        cases i with
        | zero => simpa using h
        | succ i => rw [← hs]; exact h2 i (by omega)
      · intro hk'
        rw [← hs]
        exact h3 (by omega)
    · refine ⟨0, by omega, ?_, by simp, by simpa using h⟩
      unfold stepNumber
      rw [if_neg h]
      simp

/-- The number of a new epoch is fresh, and is the first from the current number plus one that is (R5). -/
theorem nextNumber_spec (current : EpochNo) (taken : List EpochNo) (hl : taken.length < 1000) :
    nextNumber current taken ≠ 0 ∧ nextNumber current taken ∉ taken ∧
      ∃ k, nextNumber current taken = current + 1 + BitVec.ofNat 32 k ∧
        ∀ i < k, current + 1 + BitVec.ofNat 32 i = 0 ∨ current + 1 + BitVec.ofNat 32 i ∈ taken := by
  obtain ⟨k, hk, h1, h2, h3⟩ := stepNumber_spec taken (taken.length + 2) (current + 1)
  have hlt : k < taken.length + 2 := by
    apply Classical.byContradiction
    intro hge
    have hsub : ∀ x ∈ (List.range (taken.length + 2)).map (fun i => current + 1 + BitVec.ofNat 32 i),
        x ∈ (0 : EpochNo) :: taken := by
      intro x hx
      obtain ⟨i, hi, rfl⟩ := List.mem_map.1 hx
      rcases h2 i (by have := List.mem_range.1 hi; omega) with h | h
      · rw [h]; exact List.mem_cons_self
      · exact List.mem_cons_of_mem _ h
    have hnd : ((List.range (taken.length + 2)).map (fun i => current + 1 + BitVec.ofNat 32 i)).Nodup := by
      rw [List.nodup_map_iff_inj_on List.nodup_range]
      intro a ha b hb hab
      have ha := List.mem_range.1 ha
      have hb := List.mem_range.1 hb
      have : BitVec.ofNat 32 a = BitVec.ofNat 32 b := by simpa using hab
      have := congrArg BitVec.toNat this
      simp at this
      omega
    have := (List.Nodup.subperm hnd hsub).length_le
    simp at this
  have h3 := h3 hlt
  have hn : nextNumber current taken = current + 1 + BitVec.ofNat 32 k := h1
  rw [← hn] at h3
  exact ⟨fun h => h3 (.inl h), fun h => h3 (.inr h), k, hn, h2⟩

/-- In an index with distinct numbers an entry is found by its number, and the older entries are those before it (R5, R6). -/
theorem olderThan_eq {older newer : List IndexEntry} {e : IndexEntry}
    (h : ((older ++ e :: newer).map (fun x => x.number)).Nodup) :
    olderThan (older ++ e :: newer) e.number = older ∧
      (older ++ e :: newer).find? (fun x => x.number == e.number) = some e := by
  have hne : ∀ x ∈ older, x.number ≠ e.number := by
    intro x hx heq
    rw [List.map_append, List.nodup_append] at h
    exact h.2.2 x.number (List.mem_map_of_mem hx) e.number (by simp) heq
  constructor
  · unfold olderThan
    rw [List.takeWhile_append_of_pos (by intro x hx; simpa using hne x hx)]
    simp
  · rw [List.find?_append, List.find?_eq_none.2 (by intro x hx; simpa using hne x hx)]
    simp

/-! ### Commits (R9) -/

theorem countAllocations_nil {s : State} (h : s.epoch.allocReports = []) : countAllocations s = s := by
  unfold countAllocations
  rw [h]
  simp only [List.foldl_nil]
  rw [← h]

/-- The number an accepted commit gives the epoch it opens is fresh (R5). -/
theorem commit_number {s : State} (hl : s.epoch.index.length < 1000) :
    FreshNumber s.epoch.current (nextNumber s.epoch.current (s.epoch.index.map (fun e => e.number))) s.epoch.index := by
  obtain ⟨h1, h2, k, h3, h4⟩ := nextNumber_spec s.epoch.current (s.epoch.index.map (fun e => e.number)) (by simpa using hl)
  refine ⟨h1, fun x hx he => h2 (List.mem_map.2 ⟨x, hx, he⟩), k, h3, fun i hi => ?_⟩
  rcases h4 i hi with h | h
  · exact .inl h
  · obtain ⟨x, hx, he⟩ := List.mem_map.1 h
    exact .inr ⟨x, hx, he⟩

/-- An accepted commit, before the low-water test of its reservation (R9). -/
theorem commit_eq {s : State} (h : s.epoch.allocReports = []) (origin : MarkOrigin) : commit s origin =
    { s.committed (nextNumber s.epoch.current (s.epoch.index.map (fun e => e.number))) origin with
      journal.armed := s.journal.armed } := by
  unfold commit
  rw [countAllocations_nil h]
  simp only []
  have hm : (s.epoch.index.map (closeOpen s.journal.head s.epoch.captureCount origin)).map (fun e => e.number) =
      s.epoch.index.map (fun e => e.number) := by
    rw [List.map_map]
    apply List.map_congr_left
    intro e _
    simp only [Function.comp, closeOpen]
    split <;> rfl
  rw [hm]
  rfl

end Sys2Proof.Machine
end

