-- ==== Sys2Proof/Laws/Drain.lean ====
section
/-! SUPPORT. Laws of frontier advances taken in a row (R12) and of the end of a drain (R106, R108, R114, R120). -/

namespace Sys2Proof.Machine

/-! ### Frontier advances -/

theorem closes_eq_passed (j : Journal) (f : Seq) : closes j f = j.passed f := rfl

/-- What one advance changes (R12). -/
theorem takeAdvance_frame (s : State) (f : Seq) : ∃ n r a, takeAdvance s f =
    { s with epoch.index := s.journal.closeEntries [f] s.epoch.index, notice := n, dlink.report := r, status.asked := a } := by
  have hi : s.journal.closeEntries [f] s.epoch.index =
      s.epoch.index.map (fun e => if closes s.journal f e then { e with state := .closed } else e) := by
    simp only [Journal.closeEntries, List.any_cons, List.any_nil, Bool.or_false]
    rfl
  rw [hi]
  exact ⟨_, _, _, foldl_reportClose_frame (s.epoch.index.filter (closes s.journal f))
    { s with epoch.index := s.epoch.index.map (fun e => if closes s.journal f e then { e with state := .closed } else e) }⟩

/-- The notices one advance hands over. -/
theorem takeAdvance_handed (s : State) (f : Seq) :
    Handed s (takeAdvance s f) (s.journal.closeNotices s.epoch.current s.epoch.index [f]) := by
  have := foldl_reportClose_handed (s.epoch.index.filter (closes s.journal f))
    { s with epoch.index := s.epoch.index.map (fun e => if closes s.journal f e then { e with state := .closed } else e) }
  simp only [Journal.closeNotices, List.append_nil]
  exact this

theorem closeEntries_nil (j : Journal) (index : List IndexEntry) : j.closeEntries [] index = index := by
  simp [Journal.closeEntries]

/-- Advances close entries one after another. -/
theorem closeEntries_cons (j : Journal) (f : Seq) (fs : List Seq) (index : List IndexEntry) :
    j.closeEntries (f :: fs) index = j.closeEntries fs (j.closeEntries [f] index) := by
  unfold Journal.closeEntries
  rw [List.map_map]
  apply List.map_congr_left
  intro e _
  have hc : ∀ g, j.passed g { e with state := .closed } = false := fun g => rfl
  by_cases h : j.passed f e = true
  · simp [h, hc]
  · simp [h]

theorem closeEntries_append (j : Journal) (fs : List Seq) (a b : List IndexEntry) :
    j.closeEntries fs (a ++ b) = j.closeEntries fs a ++ j.closeEntries fs b := by
  unfold Journal.closeEntries; rw [List.map_append]

theorem closeEntries_cons_index (j : Journal) (fs : List Seq) (e : IndexEntry) (l : List IndexEntry) :
    ∃ st, j.closeEntries fs (e :: l) = { e with state := st } :: j.closeEntries fs l := by
  unfold Journal.closeEntries
  rw [List.map_cons]
  split
  · exact ⟨_, rfl⟩
  · exact ⟨e.state, rfl⟩

theorem closeEntries_numbers (j : Journal) (fs : List Seq) (index : List IndexEntry) :
    (j.closeEntries fs index).map (fun e => e.number) = index.map (fun e => e.number) := by
  unfold Journal.closeEntries
  rw [List.map_map]
  apply List.map_congr_left
  intro e _
  simp only [Function.comp]
  split <;> rfl

/-- Advances taken in a row: what they change, and the notices they hand over. -/
theorem foldl_takeAdvance (fs : List Seq) (s : State) :
    (∃ n r a, fs.foldl takeAdvance s =
      { s with epoch.index := s.journal.closeEntries fs s.epoch.index, notice := n, dlink.report := r, status.asked := a }) ∧
    Handed s (fs.foldl takeAdvance s) (s.journal.closeNotices s.epoch.current s.epoch.index fs) := by
  induction fs generalizing s with
  | nil => exact ⟨⟨_, _, _, by rw [closeEntries_nil]; rfl⟩, Handed.of_eq rfl rfl⟩
  | cons f fs ih =>
    have h3 := takeAdvance_handed s f
    obtain ⟨n, r, a, hf⟩ := takeAdvance_frame s f
    rw [List.foldl_cons, hf]
    rw [hf] at h3
    obtain ⟨⟨n', r', a', h1⟩, h2⟩ := ih
      { s with epoch.index := s.journal.closeEntries [f] s.epoch.index, notice := n, dlink.report := r, status.asked := a }
    refine ⟨⟨n', r', a', by rw [h1, closeEntries_cons s.journal f fs]⟩, ?_⟩
    have := h3.trans h2 rfl
    simpa only [Journal.closeNotices, List.append_nil] using this

/-- Taking every advance outstanding: what it changes, and the notices it hands over. -/
theorem takeAdvances_spec (s : State) :
    (∃ n r a, takeAdvances s =
      { s with epoch.index := s.journal.closeEntries s.epoch.advances s.epoch.index, epoch.advances := [], notice := n,
               dlink.report := r, status.asked := a }) ∧
    Handed s (takeAdvances s) (s.journal.closeNotices s.epoch.current s.epoch.index s.epoch.advances) := by
  obtain ⟨⟨n, r, a, h1⟩, h2⟩ := foldl_takeAdvance s.epoch.advances { s with epoch.advances := [] }
  exact ⟨⟨n, r, a, h1⟩, h2⟩

/-! ### The end of a drain -/

/-- A drain that ends, to the end of its action: `u` is the state at which it ends but for the notices `prior` handed over in the action
before and its request for a status block. -/
theorem drainTest_ended {s u : State} {prior : List (NoticeBody × EpochNo)} {older newer : List IndexEntry} {e : IndexEntry}
    (hu : u = { s with status := { s.status with asked := false, requests := s.status.requests + 1 }, notice := u.notice,
                       dlink.report := u.dlink.report })
    (hp : Handed u s prior) (he : s.epoch.engine = .draining) (hb : s.capture.noneBusy = true)
    (hf : s.journal.frontier = s.journal.head) (ht : s.epoch.target = some e.number) (hi : s.epoch.index = older ++ e :: newer)
    (hn : (s.epoch.index.map (fun x => x.number)).Nodup) (hl : s.epoch.index.length ≤ 16) :
    DrainEnded u (settle (drainTest s)) prior older e := by
  obtain ⟨⟨n, r, a, ha⟩, hh⟩ := takeAdvances_spec s
  have hclosing := hp.trans hh (by rw [hu])
  rw [ha] at hclosing
  clear hh
  obtain ⟨st, hst⟩ := closeEntries_cons_index s.journal s.epoch.advances e newer
  have hAi : s.journal.closeEntries s.epoch.advances s.epoch.index = s.journal.closeEntries s.epoch.advances older ++
      { e with state := st } :: s.journal.closeEntries s.epoch.advances newer := by rw [hi, closeEntries_append, hst]
  have hAn := closeEntries_numbers s.journal s.epoch.advances s.epoch.index
  rw [← hAn, hAi] at hn
  obtain ⟨hold, hfind⟩ := olderThan_eq hn
  generalize hA : ({ s with epoch.index := s.journal.closeEntries s.epoch.advances s.epoch.index, epoch.advances := [], notice := n,
                            dlink.report := r, status.asked := a } : State) = A at *
  have hd : drainTest s = startWalk (setEngine A .restoring) := by
    unfold drainTest; rw [if_pos ⟨he, hb, hf⟩, ha]
  have hju : u.journal = s.journal := by rw [hu]
  have heu : u.epoch = s.epoch := by rw [hu]
  have hAt : A.epoch.target = some e.number := by rw [← hA]; exact ht
  have hAe : A.epoch.entry? e.number = some { e with state := st } := by
    rw [← hA]; unfold EpochController.entry?; simp only []; rw [hAi]; exact hfind
  have htf : targetFirst (setEngine A .restoring) = e.first := targetFirst_eq (e := { e with state := st }) hAt hAe
  have hAj : A.journal = s.journal := by rw [← hA]
  constructor
  · intro hne
    rw [hju] at hne
    have hw := startWalk_walk htf (by rw [setEngine_journal, hAj]; exact fun h => hne h.symm)
    have hasked : (drainTest s).status.asked = true := by rw [hd, hw]; rfl
    rw [settle_of_asked hasked, hd, hw]
    constructor
    · rw [← hA, hju, heu]
      conv_rhs => rw [hu]
      rfl
    · rw [hju, heu]
      exact hclosing.congr rfl rfl rfl rfl rfl
  · intro heq
    rw [hju] at heq
    have hw := startWalk_empty htf (by rw [setEngine_journal, hAj]; exact heq.symm)
    generalize hW : ({ setEngine A .restoring with restore := { (setEngine A .restoring).restore with
      floor := e.first, applied := 0, abortPending := false, report := none, cursor := e.first, phase := .idle } } : State) = W at hw
    have hWt : W.epoch.target = some e.number := by rw [← hW]; exact hAt
    have hWe : W.epoch.entry? e.number = some { e with state := st } := by rw [← hW]; exact hAe
    have hWo : olderThan W.epoch.index e.number = s.journal.closeEntries s.epoch.advances older := by
      rw [← hW]; show olderThan A.epoch.index e.number = _
      rw [← hA]; show olderThan (s.journal.closeEntries _ s.epoch.index) _ = _
      rw [hAi]; exact hold
    have hWc : W.epoch.current = s.epoch.current := by rw [← hW, ← hA]; rfl
    have hWj : W.journal = s.journal := by rw [← hW]; exact hAj
    have hframe := completeRollback_frame hWt hWe
    have hhand := completeRollback_handed hWt hWe
    simp only [hWo, hWc, hWj] at hframe hhand
    have hnum : FreshNumber s.epoch.current
        (nextNumber s.epoch.current ((s.journal.closeEntries s.epoch.advances older).map (fun x => x.number))) older := by
      rw [closeEntries_numbers]
      exact commit_number (s := { s with epoch.index := older }) (by
        show older.length < 1000
        have : older.length ≤ s.epoch.index.length := by rw [hi]; simp
        omega)
    generalize nextNumber s.epoch.current ((s.journal.closeEntries s.epoch.advances older).map (fun x => x.number)) = number at *
    have hasked : (drainTest s).status.asked = true := by rw [hd, hw, hframe]
    refine ⟨number, by rw [heu]; exact hnum, ?_, ?_⟩
    · rw [settle_of_asked hasked, hd, hw, hju, heu]
      generalize completeRollback W = X at *
      generalize X.notice = xn at *
      generalize X.dlink.report = xr at *
      subst hframe
      rw [← hW, ← hA]
      conv_rhs => rw [hu]
      rfl
    · rw [settle_of_asked hasked, hd, hw, hju, heu]
      have h1 : Handed u W (prior ++ s.journal.closeNotices s.epoch.current s.epoch.index s.epoch.advances) := by
        rw [← hW]; exact hclosing
      have h2 := h1.trans hhand (by rw [← hW, ← hA, hu]; rfl)
      have hr : W.restore.applied = 0 := by rw [← hW]
      rw [hr] at h2
      exact h2.congr rfl rfl rfl rfl rfl

end Sys2Proof.Machine
end

