-- ==== Sys2Proof/Laws/Exec.lean ====
section
/-! SUPPORT. Every command but the two edges of RESET is one action: its effect, named once, so that a claim about all commands goes
through one lemma. -/

namespace Sys2Proof.Machine

/-- The effect of the answer to a forwarded request (R134). -/
def takeForwardAnswer (st : DStatus) (data : List Byte) (o : Origin) (t : State) : Option State :=
  match o with
  | .forwarded up kind dropped _ => some (if dropped then t else respond t kind up (mapStatus st) (responseData kind st data))
  | .trigger _ | .oldRead _ _ | .record _ | .void _ | .marker _ | .restoreRead _ | .writeBack | .notice | .status
  | .abandoned => none

/-- The effect of a command on the state, between the start and the end of its action. -/
def effectOf (c : Instr) (s : State) : State :=
  match c with
  | .upstreamRequest r => takeRequest s r
  | .allocationReport => takeAllocReport s
  | .upstreamLinkReset => resetUpstream s
  | .arbiterIssue want => arbitrate s want
  | .captureReadsIssue slot => issueOldReads s slot
  | .forwardResponse id st data => takeAnswer s id (takeForwardAnswer st data)
  | .oldImageReadAnswer id st data => takeAnswer s id fun o t =>
      match o with | .oldRead i k => some (takeOldRead t i k st data) | _ => none
  | .recordWriteAnswer id st => takeAnswer s id fun o t => match o with | .record i => some (takeRecordWrite t i st) | _ => none
  | .voidWriteAnswer id st => takeAnswer s id fun o t => match o with | .void i => some (takeVoidWrite t i st) | _ => none
  | .triggerResponse id st => takeAnswer s id fun o t =>
      match o with | .trigger i => some (takeTriggerResponse t i st) | _ => none
  | .markerWriteAnswer id st => takeAnswer s id fun o t => match o with | .marker q => some (takeMarkerWrite t q st) | _ => none
  | .frontierAdvanceReport => takeOldestAdvance s
  | .restoreReadAnswer id st data => takeAnswer s id fun o t =>
      match o with | .restoreRead k => some (takeRestoreRead t k st data) | _ => none
  | .writeBackIssue => issueWriteBacks s
  | .writeBackAnswer id st => takeAnswer s id fun o t => match o with | .writeBack => some (takeWriteBack t st) | _ => none
  | .walkEnd => takeWalkEnd s
  | .restoreFaultTaken => takeRestoreFault s
  | .restoreStop => takeRestoreStop s
  | .noticeWriteAnswer id st => takeAnswer s id fun o t => match o with | .notice => some (takeNoticeWrite t st) | _ => none
  | .statusLineAnswer id st => takeAnswer s id fun o t => match o with | .status => some (takeStatusLine t st) | _ => none
  | .statusUpdateRequest => takeStatusRequest s
  | .dlinkStaleResponse id _ _ => takeAnswer s id fun _ _ => none
  | .reevaluationPass => takePass s
  | .holdExpiry id => takeHoldExpiry s id
  | .exhaustionReport => takeExhaustion s
  | .quietExpiry => takeQuietExpiry s
  | .flushExpiry => takeFlushExpiry s
  | .windowSet => takeCommand s (fun b => b == Opcode.windowSet.code) ⟨judgeWindowSet, changeWindowSet, nothingAfter⟩
  | .journalSet =>
    takeCommand s (fun b => b == Opcode.journalSet.code) ⟨judgeJournalSet, changeJournalSet, fun s _ => lowWaterTest s⟩
  | .journalClear => takeCommand s (fun b => b == Opcode.journalClear.code) ⟨judgeJournalClear, changeJournalClear, nothingAfter⟩
  | .journalRelease =>
    takeCommand s (fun b => b == Opcode.journalRelease.code)
      ⟨judgeJournalRelease, changeJournalRelease, fun s _ => lowWaterTest s⟩
  | .epochCommit =>
    takeCommand s (fun b => b == Opcode.epochCommit.code)
      ⟨judgeEpochCommit, fun s _ => commit s .command, fun s _ => lowWaterTest s⟩
  | .epochRollback =>
    takeCommand s (fun b => b == Opcode.epochRollback.code) ⟨judgeEpochRollback, changeEpochRollback, fun s _ => drainTest s⟩
  | .rollbackAbort =>
    takeCommand s (fun b => b == Opcode.rollbackAbort.code) ⟨judgeRollbackAbort, changeRollbackAbort, nothingAfter⟩
  | .epochResume =>
    takeCommand s (fun b => b == Opcode.epochResume.code) ⟨judgeEpochResume, changeEpochResume, fun s _ => lowWaterTest s⟩
  | .noticeSet => takeCommand s (fun b => b == Opcode.noticeSet.code) ⟨judgeNoticeSet, changeNoticeSet, nothingAfter⟩
  | .noticeAck => takeCommand s (fun b => b == Opcode.noticeAck.code) ⟨judgeNoticeAck, changeNoticeAck, nothingAfter⟩
  | .timingSet lwmFirst =>
    takeCommand s (fun b => b == Opcode.timingSet.code) ⟨judgeTimingSet, changeTimingSet, afterTimingSet lwmFirst⟩
  | .statusSnapshot =>
    takeCommand s (fun b => b == Opcode.statusSnapshot.code) ⟨fun _ _ => .done, fun s _ => s, nothingAfter⟩
  | .badOpcode => takeCommand s (fun b => !opcodeKnown b) ⟨fun _ _ => .badOpcode, fun s _ => s, nothingAfter⟩
  | .cwEnable enable => writeControl (writeFrame s) enable
  | .softReset enable => softReset (writeFrame s) enable
  | .cwBaseWrite half data => writeBase (writeFrame s) half data
  | .cmdStreamsWrite half data => writeStreams (writeFrame s) half data
  | .faultWrite data => writeFault (writeFrame s) data
  | .mgmtWriteRefused reg _ => if reg = 0 ∨ reg = 6 ∨ reg = 7 ∨ 9 ≤ reg.toNat then refuseWrite (writeFrame s) else s
  | .frameAbandoned bits => abandonFrame s bits
  | .powerOnReset => powerOn s
  | .resetDeasserted => { s with resetAsserted := false }

/-- What a command leaves while RESET is asserted: a frame finds data out at 0, and nothing else happens (R190). -/
def heldInReset (c : Instr) (s : State) : State := (frameBits c).elim s (unansweredFrame s)

theorem heldInReset_frame (c : Instr) (s : State) :
    heldInReset c s = { s with mgmt.dout := (heldInReset c s).mgmt.dout } := by
  unfold heldInReset; cases (frameBits c) <;> rfl

theorem actFrame_of_live {s : State} (h : s.resetAsserted = false) (n : Nat) (f : State → State) :
    actFrame s n f = .next (settle (f s)) := by simp [actFrame, h]

theorem actFrame_in_reset {s : State} (h : s.resetAsserted = true) (n : Nat) (f : State → State) :
    actFrame s n f = .next (unansweredFrame s n) := by simp [actFrame, h]

/-- A command other than the two edges of RESET is one action with its effect. -/
theorem exec_eq (c : Instr) (s : State) (h1 : c ≠ .powerOnReset) (h2 : c ≠ .resetDeasserted) :
    exec c s = .next (if s.resetAsserted then heldInReset c s else settle (effectOf c s)) := by
  cases c <;> first
    | exact absurd rfl h1
    | exact absurd rfl h2
    | rfl
    | (simp only [exec, execOldImageReadAnswer, execRecordWriteAnswer, execVoidWriteAnswer,
        execTriggerResponse, execMarkerWriteAnswer, execRestoreReadAnswer, execWriteBackAnswer, execNoticeWriteAnswer,
        execStatusLineAnswer, act, heldInReset, frameBits, Option.elim_none, effectOf]
       congr 3; congr 1; funext o u; cases o <;> rfl)

theorem exec_live {c : Instr} {s : State} (h1 : c ≠ .powerOnReset) (h2 : c ≠ .resetDeasserted) (hr : s.resetAsserted = false) :
    exec c s = .next (settle (effectOf c s)) := by rw [exec_eq c s h1 h2, hr]; rfl

theorem exec_in_reset {c : Instr} {s : State} (h1 : c ≠ .powerOnReset) (h2 : c ≠ .resetDeasserted) (hr : s.resetAsserted = true) :
    exec c s = .next (heldInReset c s) := by rw [exec_eq c s h1 h2, hr]; rfl

/-- A command that asks for no status block leaves its effect as the next state. -/
theorem exec_quiet {c : Instr} {s : State} (h1 : c ≠ .powerOnReset) (h2 : c ≠ .resetDeasserted) (hr : s.resetAsserted = false)
    (hq : (effectOf c s).status.asked = false) : exec c s = .next (effectOf c s) := by
  rw [exec_live h1 h2 hr, settle_of_quiet hq]

/-- A command that asks for a status block leaves its effect with one more request. -/
theorem exec_asked {c : Instr} {s : State} (h1 : c ≠ .powerOnReset) (h2 : c ≠ .resetDeasserted) (hr : s.atRest)
    (hq : (effectOf c s).status.asked = true) : exec c s = .next
      { effectOf c s with status.asked := s.status.asked, status.requests := (effectOf c s).status.requests + 1 } := by
  rw [exec_live h1 h2 hr.1, settle_of_asked hq, hr.2]

/-! ### Answers: what an answer does once its identity is free -/

theorem effectOf_oldImageReadAnswer {s : State} {id : Ident} {i : Fin 8} {k : Fin 4} (st : DStatus) (data : Line) (h : s.dlink.originOf id = some (.oldRead i k)) :
    effectOf (.oldImageReadAnswer id st data) s = takeOldRead (freeIdent s id) i k st data := by
  simp only [effectOf, takeAnswer, h, Option.getD_some]

theorem effectOf_recordWriteAnswer {s : State} {id : Ident} {i : Fin 8} (st : DStatus) (h : s.dlink.originOf id = some (.record i)) :
    effectOf (.recordWriteAnswer id st) s = takeRecordWrite (freeIdent s id) i st := by
  simp only [effectOf, takeAnswer, h, Option.getD_some]

theorem effectOf_voidWriteAnswer {s : State} {id : Ident} {i : Fin 8} (st : DStatus) (h : s.dlink.originOf id = some (.void i)) :
    effectOf (.voidWriteAnswer id st) s = takeVoidWrite (freeIdent s id) i st := by
  simp only [effectOf, takeAnswer, h, Option.getD_some]

theorem effectOf_triggerResponse {s : State} {id : Ident} {i : Fin 8} (st : DStatus) (h : s.dlink.originOf id = some (.trigger i)) :
    effectOf (.triggerResponse id st) s = takeTriggerResponse (freeIdent s id) i st := by
  simp only [effectOf, takeAnswer, h, Option.getD_some]

theorem effectOf_markerWriteAnswer {s : State} {id : Ident} {q : Seq} (st : DStatus) (h : s.dlink.originOf id = some (.marker q)) :
    effectOf (.markerWriteAnswer id st) s = takeMarkerWrite (freeIdent s id) q st := by
  simp only [effectOf, takeAnswer, h, Option.getD_some]

theorem effectOf_restoreReadAnswer {s : State} {id : Ident} {k : Fin 5} (st : DStatus) (data : Line) (h : s.dlink.originOf id = some (.restoreRead k)) :
    effectOf (.restoreReadAnswer id st data) s = takeRestoreRead (freeIdent s id) k st data := by
  simp only [effectOf, takeAnswer, h, Option.getD_some]

theorem effectOf_writeBackAnswer {s : State} {id : Ident} (st : DStatus) (h : s.dlink.originOf id = some .writeBack) :
    effectOf (.writeBackAnswer id st) s = takeWriteBack (freeIdent s id) st := by
  simp only [effectOf, takeAnswer, h, Option.getD_some]

theorem effectOf_noticeWriteAnswer {s : State} {id : Ident} (st : DStatus) (h : s.dlink.originOf id = some .notice) :
    effectOf (.noticeWriteAnswer id st) s = takeNoticeWrite (freeIdent s id) st := by
  simp only [effectOf, takeAnswer, h, Option.getD_some]

theorem effectOf_statusLineAnswer {s : State} {id : Ident} (st : DStatus) (h : s.dlink.originOf id = some .status) :
    effectOf (.statusLineAnswer id st) s = takeStatusLine (freeIdent s id) st := by
  simp only [effectOf, takeAnswer, h, Option.getD_some]

/-- Every command answers a next state. -/
theorem exec_next (c : Instr) (s : State) : ∃ t, exec c s = .next t := by
  by_cases h1 : c = .powerOnReset
  · subst h1; exact ⟨_, rfl⟩
  · by_cases h2 : c = .resetDeasserted
    · subst h2; exact ⟨_, rfl⟩
    · rw [exec_eq c s h1 h2]; exact ⟨_, rfl⟩

/-- Every step answers a next state. -/
theorem step_next (s : State) : ∃ t, step s = .next t := by
  unfold step
  split
  · split <;> exact ⟨_, rfl⟩
  · exact exec_next _ _

/-- What a command leads to: while RESET holds the part at most zeros on data out, and otherwise its effect and the end of its
action. -/
theorem exec_cases {c : Instr} {s t : State} (h : exec c s = .next t) :
    (c = .powerOnReset ∧ t = powerOn s) ∨ (c = .resetDeasserted ∧ t = { s with resetAsserted := false }) ∨
      (s.resetAsserted = true ∧ t = { s with mgmt.dout := t.mgmt.dout }) ∨
      (s.resetAsserted = false ∧ t = settle (effectOf c s)) := by
  by_cases h1 : c = .powerOnReset
  · subst h1; left; exact ⟨rfl, (Host.Outcome.next.inj h).symm⟩
  · by_cases h2 : c = .resetDeasserted
    · subst h2; right; left; exact ⟨rfl, (Host.Outcome.next.inj h).symm⟩
    · by_cases hr : s.resetAsserted = true
      · have k := heldInReset_frame c s
        rw [exec_in_reset h1 h2 hr] at h
        rw [Host.Outcome.next.inj h] at k
        exact .inr (.inr (.inl ⟨hr, k⟩))
      · have hf : s.resetAsserted = false := by simpa using hr
        rw [exec_live h1 h2 hf] at h
        exact .inr (.inr (.inr ⟨hf, (Host.Outcome.next.inj h).symm⟩))

/-- What an event on the pins of the management port changes: its frame, its data out, and the command a complete write frame puts in
front of the queue. -/
theorem takeSerial_frame (s : State) (e : SerialEvent) : takeSerial s e =
    { s with mgmt.frame := (takeSerial s e).mgmt.frame, mgmt.dout := (takeSerial s e).mgmt.dout,
             pending := (takeSerial s e).pending } := by
  unfold takeSerial
  split <;> try rfl
  unfold clockBit
  split
  · rfl
  · split
    · rfl
    · simp only [shiftBit]
      split <;> split <;> rfl

/-- What a step leads to. -/
theorem step_cases {s t : State} (h : step s = .next t) :
    (∃ c rest, s.pending = c :: rest ∧ exec c { s with pending := rest } = .next t) ∨
      (∃ e rest, s.pending = [] ∧ s.serial = e :: rest ∧ t = takeSerial { s with serial := rest } e) ∨
      (s.pending = [] ∧ s.serial = [] ∧ t = tick s) := by
  unfold step at h
  split at h
  · split at h
    · exact .inr (.inr ⟨by assumption, by assumption, (Host.Outcome.next.inj h).symm⟩)
    · exact .inr (.inl ⟨_, _, by assumption, by assumption, (Host.Outcome.next.inj h).symm⟩)
  · exact .inl ⟨_, _, by assumption, h⟩

end Sys2Proof.Machine
end

