-- ==== Sys2Proof/Laws/Formats.lean ====
section
/-! SUPPORT. Laws of the byte layouts: little-endian fields and sealed header lines. -/

namespace Sys2Proof.Machine

@[simp] theorem leBytes_length (n v : Nat) : (leBytes n v).length = n := by
  induction n generalizing v with
  | zero => rfl
  | succ n ih => simp [leBytes, ih]

/-- A little-endian field reads back, as far as its width goes. -/
theorem leValue_leBytes (n v : Nat) : leValue (leBytes n v) = v % 256 ^ n := by
  induction n generalizing v with
  | zero => simp [leBytes, leValue, Nat.mod_one]
  | succ n ih =>
    rw [leBytes, leValue, ih, BitVec.toNat_ofNat, Nat.pow_succ 256 n, Nat.mul_comm (256 ^ n) 256, Nat.mod_mul]

theorem lineOfBytes_toList (bs : List Byte) : (lineOfBytes bs).toList = (List.range 64).map (fun i => bs.getD i 0) := rfl

/-- The bytes of a line at an offset are those of the list it was built from. -/
theorem bytesAt_lineOfBytes {bs : List Byte} {offset n : Nat} (h : offset + n ≤ bs.length) (hl : bs.length ≤ 64) :
    bytesAt (lineOfBytes bs) offset n = (bs.drop offset).take n := by
  unfold bytesAt
  rw [lineOfBytes_toList]
  apply List.ext_getElem
  · simp; omega
  · intro i h1 h2
    simp at h1 h2
    simp only [List.getElem_take, List.getElem_drop, List.getElem_map, List.getElem_range]
    rw [List.getD_eq_getElem?_getD, List.getElem?_eq_getElem (by omega)]
    rfl

theorem fieldAt_lineOfBytes {bs : List Byte} {offset n : Nat} (h : offset + n ≤ bs.length) (hl : bs.length ≤ 64) :
    fieldAt (lineOfBytes bs) offset n = leValue ((bs.drop offset).take n) := by
  unfold fieldAt; rw [bytesAt_lineOfBytes h hl]

/-- A field of a sealed header is that of the bytes it seals. -/
theorem fieldAt_sealHeader {bs : List Byte} {offset n : Nat} (hb : bs.length = 60) (h : offset + n ≤ 60) :
    fieldAt (sealHeader bs) offset n = leValue ((bs.drop offset).take n) := by
  unfold sealHeader
  rw [fieldAt_lineOfBytes (by simp; omega) (by simp; omega), List.drop_append_of_le_length (by omega),
    List.take_append_of_le_length (by simp; omega)]

/-- A sealed header passes the header check (R80, R110). -/
theorem sealHeader_ok {bs : List Byte} (hb : bs.length = 60) : headerCheckOk (sealHeader bs) = true := by
  unfold headerCheckOk sealHeader
  rw [fieldAt_lineOfBytes (by simp; omega) (by simp; omega), bytesAt_lineOfBytes (by simp; omega) (by simp; omega)]
  have h1 : ((bs ++ leBytes 4 (journalCrc bs).toNat).drop 0).take 60 = bs := by
    rw [List.drop_zero, ← hb, List.take_left]
  have h2 : ((bs ++ leBytes 4 (journalCrc bs).toNat).drop 60).take 4 = leBytes 4 (journalCrc bs).toNat := by
    rw [← hb, List.drop_left, List.take_of_length_le (by simp)]
  have h3 : (journalCrc bs).toNat % 256 ^ 4 = (journalCrc bs).toNat := Nat.mod_eq_of_lt (by have := (journalCrc bs).isLt; omega)
  rw [h1, h2, leValue_leBytes, h3, BitVec.ofNat_toNat, BitVec.setWidth_eq]
  exact beq_self_eq_true _

end Sys2Proof.Machine
end

