-- ==== Sys2Proof/Laws/Frames.lean ====
section
/-! SUPPORT. Laws of the management frames (R180, R198): what shifting a list of bits does, and what the bits spell. -/

namespace Sys2Proof.Machine

/-- The value captured after these bits of a frame: that of the register a read names, once its command byte is in. -/
def captureOf (s : State) (bits : List Bool) : BitVec 32 :=
  if 8 ≤ bits.length ∧ frameWrites bits = false then s.mgmtRead (frameRegister bits) else 0

/-- The commands waiting after these bits of a frame. -/
def pendingOf (s : State) (bits : List Bool) : List Instr :=
  if 40 ≤ bits.length ∧ frameWrites bits = true then registerWrite (frameRegister bits) (frameData bits) :: s.pending else s.pending

/-- The bits driven on data out after these bits of a frame. -/
def drivenOf (s : State) (bits : List Bool) : List Bool :=
  (List.range (bits.length - 8)).map (fun k => decide (k < 32) && (captureOf s bits).getLsbD (31 - k))

theorem frameWrites_append {bits : List Bool} (b : Bool) (h : bits ≠ []) : frameWrites (bits ++ [b]) = frameWrites bits := by
  cases bits with
  | nil => exact absurd rfl h
  | cons a l => rfl

theorem frameRegister_append {bits : List Bool} (b : Bool) (h : 8 ≤ bits.length) :
    frameRegister (bits ++ [b]) = frameRegister bits := by
  unfold frameRegister; rw [List.take_append_of_le_length h]

theorem captureOf_append {bits : List Bool} (s : State) (b : Bool) (h : bits.length + 1 ≠ 8) :
    captureOf s (bits ++ [b]) = captureOf s bits := by
  unfold captureOf
  by_cases h8 : 8 ≤ bits.length
  · have hn : bits ≠ [] := by intro e; simp [e] at h8
    rw [frameWrites_append b hn, frameRegister_append b h8]
    simp [h8, show 8 ≤ bits.length + 1 by omega]
  · simp [h8, show ¬ 8 ≤ bits.length + 1 by omega]

/-- A frame after these bits of it: everything shifting them does. -/
theorem foldl_clockBit (s : State) (bits : List Bool) : bits.foldl clockBit (selectFrame s) =
    { s with mgmt.frame := some ⟨bits.take 40, captureOf s bits⟩, mgmt.dout := drivenOf s bits, pending := pendingOf s bits } := by
  rcases List.eq_nil_or_concat bits with h | h
  · subst h; simp [selectFrame, drivenOf, captureOf, pendingOf]
  clear h
  induction bits using List.reverseRecOn with
  | nil => simp [selectFrame, drivenOf, captureOf, pendingOf]
  | append_singleton bits b ih =>
    rw [List.foldl_append, ih, List.foldl_cons, List.foldl_nil]
    unfold clockBit
    simp only []
    by_cases h40 : 40 ≤ bits.length
    · have h1 : 40 ≤ (bits.take 40).length := by simp; omega
      have hn : bits ≠ [] := by intro e; simp [e] at h40
      rw [if_pos h1]
      have hd : drivenOf s (bits ++ [b]) = drivenOf s bits ++ [false] := by
        unfold drivenOf
        rw [captureOf_append s b (by omega), List.length_append, List.length_singleton,
          show bits.length + 1 - 8 = (bits.length - 8) + 1 by omega, List.range_succ, List.map_append]
        simp; omega
      have hp : pendingOf s (bits ++ [b]) = pendingOf s bits := by
        unfold pendingOf frameData
        rw [frameWrites_append b hn, frameRegister_append b (by omega), List.drop_append_of_le_length (by omega),
          List.take_append_of_le_length (by simp; omega)]
        simp [h40, show 40 ≤ bits.length + 1 by omega]
      rw [hd, hp, captureOf_append s b (by omega), List.take_append_of_le_length h40]
      rfl
    · have h1 : bits.take 40 = bits := List.take_of_length_le (by omega)
      have h2 : (bits ++ [b]).take 40 = bits ++ [b] := List.take_of_length_le (by simp; omega)
      rw [h1, h2, if_neg h40]
      have hp0 : pendingOf s bits = s.pending := by simp [pendingOf, h40]
      have hc : captureAt { s with mgmt.frame := some ⟨bits, captureOf s bits⟩, mgmt.dout := drivenOf s bits, pending := s.pending }
          ⟨bits, captureOf s bits⟩ (bits ++ [b]) = captureOf s (bits ++ [b]) := by
        unfold captureAt
        by_cases h8 : bits.length + 1 = 8
        · have h0 : captureOf s bits = 0 := by unfold captureOf; rw [if_neg (by omega)]
          unfold captureOf
          have h7 : 7 ≤ bits.length := by omega
          have h7' : ¬ 8 ≤ bits.length := by omega
          cases hw : frameWrites (bits ++ [b]) <;> simp [h8, h7'] <;> rfl
        · rw [captureOf_append s b h8]
          simp [h8]
      have hd : drivenOf s (bits ++ [b]) =
          if 8 ≤ bits.length then drivenOf s bits ++ [(captureOf s bits).getLsbD (39 - bits.length)] else drivenOf s bits := by
        unfold drivenOf
        by_cases h8 : 8 ≤ bits.length
        · rw [if_pos h8, captureOf_append s b (by omega), List.length_append, List.length_singleton,
            show bits.length + 1 - 8 = (bits.length - 8) + 1 by omega, List.range_succ, List.map_append]
          simp [show bits.length - 8 < 32 by omega, show 31 - (bits.length - 8) = 39 - bits.length by omega]
        · simp [h8, show bits.length - 8 = 0 by omega, show bits.length + 1 - 8 = 0 by omega]
      unfold shiftBit
      simp only []
      rw [hp0, hc, hd]
      have hpend : pendingOf s (bits ++ [b]) = if (bits ++ [b]).length = 40 ∧ frameWrites (bits ++ [b]) = true
          then registerWrite (frameRegister (bits ++ [b])) (frameData (bits ++ [b])) :: s.pending else s.pending := by
        unfold pendingOf
        have : (40 ≤ (bits ++ [b]).length) ↔ (bits ++ [b]).length = 40 := by simp; omega
        simp only [this]
      rw [hpend]
      by_cases h8 : 8 ≤ bits.length
      · simp only [if_pos h8, drive]
        split <;> rfl
      · have hne : ¬ ((bits ++ [b]).length = 40 ∧ frameWrites (bits ++ [b]) = true) := by simp; omega
        rw [if_neg hne, if_neg hne]
        simp only [if_neg h8]

/-- The value of bits, the last of them apart. -/
theorem bitsValue_append (bits : List Bool) (b : Bool) : bitsValue (bits ++ [b]) = 2 * bitsValue bits + if b then 1 else 0 := by
  simp [bitsValue, List.foldl_append]

/-- Bit k of the value of bits is the k-th from their end. -/
theorem bitsValue_testBit (bits : List Bool) (k : Nat) :
    (bitsValue bits).testBit k = (decide (k < bits.length) && bits.getD (bits.length - 1 - k) false) := by
  induction bits using List.reverseRecOn generalizing k with
  | nil => simp [bitsValue]
  | append_singleton bits b ih =>
    rw [bitsValue_append]
    cases k with
    | zero => cases b <;> simp
    | succ k =>
      have : (2 * bitsValue bits + if b then 1 else 0) / 2 = bitsValue bits := by cases b <;> simp <;> omega
      rw [Nat.testBit_succ, this, ih]
      by_cases hk : k < bits.length
      · simp only [hk, decide_true, Bool.true_and, List.length_append, List.length_singleton, Nat.add_lt_add_right hk 1]
        rw [List.getD_append _ _ _ _ (by omega)]
        congr 1; omega
      · simp [hk]

/-- The register number of a frame, bit by bit (R198). -/
theorem frameRegister_eq {bits : List Bool} {reg : BitVec 4} (h8 : 8 ≤ bits.length) (h : ∀ k < 4, reg.getLsbD k = bits.getD (7 - k) false) :
    frameRegister bits = reg := by
  apply BitVec.eq_of_getLsbD_eq
  intro k hk
  rw [h k hk, frameRegister, BitVec.getLsbD_ofNat, bitsValue_testBit]
  have : (bits.take 8).length = 8 := by simp; omega
  rw [this]
  simp [hk, show k < 8 by omega, show 7 - k < 8 by omega]

/-- The data of a complete frame, bit by bit (R198). -/
theorem frameData_eq {bits : List Bool} {data : BitVec 32} (h8 : 40 ≤ bits.length) (h : ∀ k < 32, data.getLsbD k = bits.getD (39 - k) false) :
    frameData bits = data := by
  apply BitVec.eq_of_getLsbD_eq
  intro k hk
  rw [h k hk, frameData, BitVec.getLsbD_ofNat, bitsValue_testBit]
  have : ((bits.drop 8).take 32).length = 32 := by simp; omega
  rw [this]
  simp [hk, show 31 - k < 32 by omega, show 8 + (31 - k) = 39 - k by omega]

theorem takeSerial_select {s : State} (h : s.resetAsserted = false) : takeSerial s .select = selectFrame s := by
  unfold takeSerial; rw [h]

theorem takeSerial_bit {s : State} (h : s.resetAsserted = false) (b : Bool) : takeSerial s (.bit b) = clockBit s b := by
  unfold takeSerial; rw [h]

theorem takeSerial_deselect {s : State} (h : s.resetAsserted = false) : takeSerial s .deselect = endFrame s := by
  unfold takeSerial; rw [h]

/-- Bits taken from the pins, outside RESET. -/
theorem foldl_takeSerial {s : State} (h : s.resetAsserted = false) (bits : List Bool) :
    bits.foldl (fun u b => takeSerial u (.bit b)) s = bits.foldl clockBit s := by
  induction bits generalizing s with
  | nil => rfl
  | cons b bits ih =>
    rw [List.foldl_cons, List.foldl_cons, takeSerial_bit h]
    apply ih
    rw [← takeSerial_bit h, takeSerial_frame]; exact h

end Sys2Proof.Machine
end

