-- ==== Sys2Proof/Laws/Hold.lean ====
section
/-! SUPPORT. Laws of a pass of re-evaluation: an allocation, the judging of held entries one after another (R89), and the expiries at its
end (R93). -/

namespace Sys2Proof.Machine

/-- All an allocation does. -/
theorem allocate_allocated {s : State} {r : Request} {w : Fin 16} {i : Fin 8} (h : s.capture.slots[i] = none) :
    Allocated s (allocate s r w i) r w := by
  have hs : (allocate s r w i).capture.slots = (setSlot s i (some (newSlot s r w))).capture.slots := by rw [allocate_frame]
  refine ⟨i, ?_, h, ?_, ?_, allocate_handed s r w i⟩
  · conv => lhs; rw [allocate_frame]
    rw [hs]
    by_cases hc : 2048 ≤ s.capture.table.length <;> simp [hc]
  · rw [hs]; exact setSlot_self s i _
  · intro j hj; rw [hs]; exact setSlot_other s _ hj

/-- What becomes of one entry, by the capture unit's judgement of it (R89, R90). -/
theorem judged_of {s : State} {kept : List HeldEntry} {e : HeldEntry} (hx : ¬ (s.epoch.engine = .capturing ∧ e.exhausted = true)) :
    match judgeHeld s e.request (kept.any (fun k => k.granule == e.granule)) with
    | .forward => Judged s kept e (forwardRequest s e.request true) kept
    | .allocate i => Judged s kept e (allocate s e.request e.window i) kept
    | .hold cause => Judged s kept e s (kept ++ [{ e with cause := cause }]) := by
  have hk : kept.any (fun k => k.granule == e.granule) = true ↔ ∃ k ∈ kept, granuleOf k.request.addr = granuleOf e.request.addr := by
    rw [List.any_eq_true]
    constructor
    · rintro ⟨k, h1, h2⟩; exact ⟨k, h1, by simpa [HeldEntry.granule] using h2⟩
    · rintro ⟨k, h1, h2⟩; exact ⟨k, h1, by simpa [HeldEntry.granule] using h2⟩
  unfold judgeHeld
  by_cases hf : s.epoch.engine.fenceUp = true
  · rw [if_pos hf]
    by_cases hb : s.capture.holdsGranule (granuleOf e.request.addr) = true
    · rw [if_pos hb]
      exact ⟨fun h => absurd hx h, fun _ _ => ⟨fun _ => ⟨rfl, rfl⟩, fun h => absurd ((holdsGranule_iff _ _).1 hb) h⟩,
        fun _ h => absurd (h.symm.trans hf) (by decide)⟩
    · rw [if_neg hb]
      exact ⟨fun h => absurd hx h, fun _ _ => ⟨fun h => absurd ((holdsGranule_iff _ _).2 h) hb, fun _ => ⟨rfl, rfl⟩⟩,
        fun _ h => absurd (h.symm.trans hf) (by decide)⟩
  · rw [if_neg hf]
    unfold judgeOpen
    generalize kept.any (fun k => k.granule == e.granule) = older at *
    simp only []
    by_cases ho : (s.capture.holdsGranule (granuleOf e.request.addr) || older) = true
    · rw [if_pos ho]
      have ho' : (∃ (i : Fin 8) (x : CaptureSlot), s.capture.slots[i] = some x ∧ x.granule = granuleOf e.request.addr) ∨
          ∃ k ∈ kept, granuleOf k.request.addr = granuleOf e.request.addr := by
        rw [Bool.or_eq_true] at ho
        exact ho.imp (holdsGranule_iff _ _).1 hk.1
      exact ⟨fun h => absurd hx h, fun _ h => absurd h hf, fun _ _ => ⟨fun _ => ⟨rfl, rfl⟩, fun h => absurd ho' h, fun h => absurd ho' h,
        fun h => absurd ho' h, fun h => absurd ho' h⟩⟩
    · rw [if_neg ho]
      have ho' : ¬ ((∃ (i : Fin 8) (x : CaptureSlot), s.capture.slots[i] = some x ∧ x.granule = granuleOf e.request.addr) ∨
          ∃ k ∈ kept, granuleOf k.request.addr = granuleOf e.request.addr) := by
        intro h
        apply ho
        rw [Bool.or_eq_true]
        exact h.imp (holdsGranule_iff _ _).2 hk.2
      have goes (hc : ¬ (s.epoch.engine = .capturing ∧ e.request.kind = .write ∧ granuleOf e.request.addr ∉ s.capture.table)) :
          Judged s kept e (forwardRequest s e.request true) kept :=
        ⟨fun h => absurd hx h, fun _ h => absurd h hf, fun _ _ => ⟨fun h => absurd h ho', fun _ _ => ⟨rfl, rfl⟩, fun _ h => absurd h hc,
          fun _ h => absurd h hc, fun _ h => absurd h hc⟩⟩
      cases hr : e.request.kind with
      | read => exact goes (by rw [hr]; simp)
      | write =>
        simp only []
        by_cases he : s.epoch.engine = .capturing
        · rw [if_pos he]
          by_cases ht : granuleOf e.request.addr ∈ s.capture.table
          · rw [if_pos ht]; exact goes (by simp [ht])
          · rw [if_neg ht]
            have hc : s.epoch.engine = .capturing ∧ e.request.kind = .write ∧ granuleOf e.request.addr ∉ s.capture.table := ⟨he, hr, ht⟩
            cases hs : s.capture.freeSlot? with
            | none =>
              have hn := freeSlot?_none_iff.1 hs
              have hn' : ¬ ∃ i : Fin 8, s.capture.slots[i] = none := fun ⟨i, hi⟩ => hn i hi
              exact ⟨fun h => absurd hx h, fun _ h => absurd h hf, fun _ _ => ⟨fun h => absurd h ho', fun _ h => absurd hc h,
                fun _ _ _ => ⟨rfl, rfl⟩, fun _ _ h => absurd h hn', fun _ _ h => absurd h hn'⟩⟩
            | some i =>
              have hi := freeSlot?_some hs
              simp only []
              by_cases h0 : s.journal.free = 0
              · rw [if_pos h0]
                have hn := (free_eq_zero_iff s.journal).1 h0
                exact ⟨fun h => absurd hx h, fun _ h => absurd h hf, fun _ _ => ⟨fun h => absurd h ho', fun _ h => absurd hc h,
                  fun _ _ h => absurd ⟨i, hi⟩ h, fun _ _ _ _ => ⟨rfl, rfl⟩, fun _ _ _ h => by omega⟩⟩
              · rw [if_neg h0]
                have hn : (s.journal.head - s.journal.release).toNat < s.journal.slots := by
                  have := mt (free_eq_zero_iff s.journal).2 h0; omega
                exact ⟨fun h => absurd hx h, fun _ h => absurd h hf, fun _ _ => ⟨fun h => absurd h ho', fun _ h => absurd hc h,
                  fun _ _ h => absurd ⟨i, hi⟩ h, fun _ _ _ h => absurd hn h, fun _ _ _ _ => ⟨rfl, allocate_allocated hi⟩⟩⟩
        · rw [if_neg he]; exact goes (by simp [he])

/-- The judging of the entries of a pass is one judgement after another (R89). -/
theorem judgeEntries_judged (entries : List HeldEntry) (s : State) (kept : List HeldEntry) :
    JudgedAll s kept entries (judgeEntries s kept entries).1 (judgeEntries s kept entries).2 := by
  induction entries generalizing s kept with
  | nil => exact ⟨rfl, rfl⟩
  | cons e rest ih =>
    unfold judgeEntries
    by_cases hx : s.epoch.engine = .capturing ∧ e.exhausted = true
    · rw [if_pos hx]
      exact ⟨_, _, ⟨fun _ => ⟨rfl, rfl⟩, fun h => absurd hx h, fun h => absurd hx h⟩, ih _ _⟩
    · rw [if_neg hx]
      have hj := judged_of (kept := kept) hx
      cases hc : judgeHeld s e.request (kept.any (fun k => k.granule == e.granule)) with
      | forward => rw [hc] at hj; exact ⟨_, _, hj, ih _ _⟩
      | allocate i => rw [hc] at hj; exact ⟨_, _, hj, ih _ _⟩
      | hold cause => rw [hc] at hj; exact ⟨_, _, hj, ih _ _⟩

/-! ### The expiries of a pass -/

/-- The notice of an expiry (R92). -/
def expiryNotice (epoch : EpochNo) (e : HeldEntry) : NoticeBody × EpochNo :=
  (.holdExpired e.cause e.request.kind e.request.id e.request.addr e.window, epoch)

/-- Expiries taken one after another: the entries leave the queue and are answered in their order, each with its notice and a pass of
its own. -/
theorem foldl_expireWithPass (late : List HeldEntry) (s : State) (hn : (late.map (fun e => e.request.id)).Nodup)
    (ho : ∀ e ∈ late, e.request.id ∈ s.ulink.outstanding) :
    late.foldl expireWithPass s =
      { s with
        hold.entries := s.hold.entries.filter (fun x => late.all (fun e => x.request.id != e.request.id))
        hold.passes := s.hold.passes + late.length
        ulink := ⟨s.ulink.outstanding.filter (fun x => late.all (fun e => x != e.request.id)),
          s.ulink.returned ++ late.map (fun e => ⟨e.request.kind, e.request.id, expiryStatus e.cause, []⟩)⟩
        notice := (late.foldl expireWithPass s).notice
        dlink.report := (late.foldl expireWithPass s).dlink.report } ∧
    Handed s (late.foldl expireWithPass s) (late.map (expiryNotice s.epoch.current)) := by
  induction late generalizing s with
  | nil => exact ⟨by simp, Handed.of_eq rfl rfl⟩
  | cons e late ih =>
    rw [List.map_cons, List.nodup_cons] at hn
    have he : expireWithPass s e =
        { s with
          hold.entries := s.hold.entries.filter (fun x => x.request.id != e.request.id)
          hold.passes := s.hold.passes + 1
          ulink := ⟨s.ulink.outstanding.filter (fun x => x != e.request.id),
            s.ulink.returned ++ [⟨e.request.kind, e.request.id, expiryStatus e.cause, []⟩]⟩
          notice := (expireWithPass s e).notice
          dlink.report := (expireWithPass s e).dlink.report } ∧
        Handed s (expireWithPass s e) [expiryNotice s.epoch.current e] := by
      unfold expireWithPass expireEntry
      rw [respond_of_mem (by exact ho e (by simp))]
      generalize hX : ({ s with
        hold.entries := s.hold.entries.filter (fun x => x.request.id != e.request.id)
        ulink := ⟨s.ulink.outstanding.filter (fun x => x != e.request.id),
          s.ulink.returned ++ [⟨e.request.kind, e.request.id, expiryStatus e.cause, []⟩]⟩ } : State) = X
      have hf := post_frame X (.holdExpired e.cause e.request.kind e.request.id e.request.addr e.window)
      have hh := handed_post X (.holdExpired e.cause e.request.kind e.request.id e.request.addr e.window)
      generalize post X (.holdExpired e.cause e.request.kind e.request.id e.request.addr e.window) = P at *
      subst hX
      refine ⟨?_, hh.congr rfl rfl rfl rfl rfl⟩
      generalize P.notice = n at *
      generalize P.dlink.report = r at *
      subst hf
      rfl
    have ho' : ∀ x ∈ late, x.request.id ∈ (expireWithPass s e).ulink.outstanding := by
      intro x hx
      rw [he.1]
      refine List.mem_filter.2 ⟨ho x (by simp [hx]), ?_⟩
      have : x.request.id ≠ e.request.id := fun h => hn.1 (h ▸ List.mem_map_of_mem hx)
      simpa using this
    obtain ⟨h1, h2⟩ := ih (expireWithPass s e) hn.2 ho'
    rw [List.foldl_cons]
    generalize late.foldl expireWithPass (expireWithPass s e) = t at *
    obtain ⟨he1, he2⟩ := he
    generalize expireWithPass s e = u at *
    have ht : u.mgmt.time = s.mgmt.time := by rw [he1]
    have hc : u.epoch.current = s.epoch.current := by rw [he1]
    rw [hc] at h2
    refine ⟨?_, he2.trans h2 ht⟩
    generalize t.notice = n at *
    generalize t.dlink.report = r at *
    generalize u.notice = n' at *
    generalize u.dlink.report = r' at *
    subst h1 he1
    simp only [List.filter_filter, List.all_cons, List.length_cons, List.map_cons, List.append_assoc, List.singleton_append,
      Nat.add_assoc, Nat.add_comm 1]
    simp only [Bool.and_comm]

end Sys2Proof.Machine
end

