-- ==== Sys2Proof/WellFormed.lean ====
section
/-! DEFINITION. The form a command's operands have by the manual's own words: a WRITE carries one byte and one enable flag for
each byte of its length, a READ none (R127); a read's answer is at most one line (R127, R135), and that it has the length of its
request is not asked here (log 30); an abandoned frame has fewer than
forty bits (R180); a refused management write names a read-only or unassigned register (R181). -/

namespace Sys2Proof

/-- The data and the byte mask have one item for each byte of the length, and are absent from a READ (R127). -/
def Request.wellFormed (r : Request) : Bool :=
  match r.kind with
  | .read => r.data.isEmpty && r.mask.isEmpty
  | .write => r.data.length == r.length && r.mask.length == r.length

/-- The register numbers whose write is ignored with MGMT_REFUSED whatever the device state (R181). -/
def readOnlyRegister (reg : BitVec 4) : Bool :=
  reg == 0 || reg == 6 || reg == 7 || decide (9 ≤ reg.toNat)

/-- The form of a command's operands. -/
def Instr.wellFormed : Instr → Bool
  | .upstreamRequest r => r.wellFormed
  | .forwardResponse _ _ data => decide (data.length ≤ 64)
  | .dlinkStaleResponse _ _ data => decide (data.length ≤ 64)
  | .mgmtWriteRefused reg _ => readOnlyRegister reg
  | .frameAbandoned bits => decide (bits.length < 40)
  | .allocationReport | .upstreamLinkReset | .arbiterIssue _ | .captureReadsIssue _ | .oldImageReadAnswer _ _ _
  | .recordWriteAnswer _ _ | .voidWriteAnswer _ _ | .triggerResponse _ _ | .markerWriteAnswer _ _ | .frontierAdvanceReport
  | .restoreReadAnswer _ _ _ | .writeBackIssue | .writeBackAnswer _ _ | .walkEnd | .restoreFaultTaken | .restoreStop
  | .noticeWriteAnswer _ _ | .statusLineAnswer _ _ | .statusUpdateRequest | .reevaluationPass | .holdExpiry _
  | .exhaustionReport | .quietExpiry | .flushExpiry | .windowSet | .journalSet | .journalClear | .journalRelease
  | .epochCommit | .epochRollback | .rollbackAbort | .epochResume | .noticeSet | .noticeAck | .timingSet _
  | .statusSnapshot | .badOpcode | .cwEnable _ | .softReset _ | .cwBaseWrite _ _ | .cmdStreamsWrite _ _ | .faultWrite _
  | .powerOnReset | .resetDeasserted => true

end Sys2Proof
end

