-- ==== Sys2Proof/Tests/Slice0.lean ====
section
/-! SUPPORT. The model's own tests: operands that are not well formed, values the manual gives, results of the commands, and for each
statement a state and operands that meet its hypotheses, clause by clause. -/

namespace Sys2Proof.Machine.Test

set_option Elab.async false

/-! ### A small RUNNING part and small operands -/

/-- A RUNNING, CAPTURING part with a JOURNAL window, a GUARD window, 256 journal slots and 16 notice entries. -/
def rig : State :=
  { State.reset with
    mgmt := ⟨.running, true, 0x400000, 1, ⟨false, false, false⟩, none, 5000, []⟩
    windows := (windowsReset.set 0 ⟨.journal, 0x10000, 0x1FFFF, true, false⟩).set 1 ⟨.guard, 0x30000, 0x30FFF, false, true⟩
    epoch := { EpochController.reset with
      engine := .capturing, current := 1, index := [⟨1, 0, none, .opened, 0, none⟩], quiet := .running 7, tQuiet := 1 }
    journal := ⟨0x100000, 256, 3, 3, 0, [], 0, true⟩
    notice := { NoticeUnit.reset with configured := true, base := 0x200000, size := 16 } }

/-- The same part in another engine state, with this target. -/
def rigIn (e : Engine) (target : Option EpochNo) : State := { rig with epoch.engine := e, epoch.target := target }

def id0 : Ident := ⟨0, 1⟩
def id1 : Ident := ⟨63, 255⟩

def wr (addr : Addr) (n : Nat) : Request := ⟨.write, id0, addr, n, List.replicate n 0xAB, List.replicate n true⟩
def rd (addr : Addr) (n : Nat) : Request := ⟨.read, id0, addr, n, [], []⟩

/-- A busy slot of the window's first granule. -/
def slotA : CaptureSlot := newSlot rig (wr 0x10000 1) 0

/-- A state whose last capture slot is this. -/
def withSlot (s : State) (c : CaptureSlot) : State := { s with capture.slots := s.capture.slots.set 7 (some c) }

/-- A state in which this identity is in use for this origin. -/
def usedFor (s : State) (o : Origin) : State := { s with dlink.inUse := [⟨id1, o⟩], ulink.outstanding := [id0] }

/-- A held write of the window's first granule, just at tHOLD (2,000 µs). -/
def heldA (cause : HoldCause) : HeldEntry := ⟨wr 0x10000 1, 0, cause, 3000, false⟩

def holding (s : State) (e : HeldEntry) : State :=
  { s with hold.entries := [e], ulink.outstanding := [e.request.id] }

/-- A command at the head of the queue with these argument bytes, from byte 8 of its line. -/
def queued (op : Byte) (args : List Byte) : QueuedCommand := ⟨0, 0, op, 7, lineOfBytes (zeroBytes 8 ++ args)⟩

def give (s : State) (op : Byte) (args : List Byte) : State := { s with cmd.queue := [queued op args] }

/-- The result a command is answered with. -/
def resultOf (c : Instr) (s : State) : Option Result :=
  match exec c s with
  | .next t => t.cmd.last.map (fun l => l.result)
  | .fault _ | .refused _ => none

/-! ### Operands that are not well formed -/

theorem test_wellFormed_write : (Instr.upstreamRequest (wr 0x10000 64)).wellFormed = true := by decide
theorem test_illFormed_readWithData :
    (Instr.upstreamRequest { rd 0 1 with data := [0] }).wellFormed = false ∧
    (Instr.upstreamRequest { rd 0 1 with mask := [true] }).wellFormed = false := by decide
theorem test_illFormed_writeDataLength : (Instr.upstreamRequest { wr 0 2 with data := [0] }).wellFormed = false := by decide
theorem test_illFormed_writeMaskLength : (Instr.upstreamRequest { wr 0 2 with mask := [true] }).wellFormed = false := by decide
theorem test_illFormed_forwardResponse : (Instr.forwardResponse id0 .ok (zeroBytes 65)).wellFormed = false := by decide
theorem test_illFormed_staleResponse : (Instr.dlinkStaleResponse id0 .ok (zeroBytes 65)).wellFormed = false := by decide
theorem test_illFormed_writableRegister : (Instr.mgmtWriteRefused 8 0).wellFormed = false := by decide
theorem test_illFormed_wholeFrame : (Instr.frameAbandoned (List.replicate 40 true)).wellFormed = false := by decide

/-! ### Values the manual gives -/

/-- R79: the journal CRC of 256 zero bytes, line by line. -/
theorem test_crc_zeroLines :
    zeroLine.toList.foldl crcByte 0xFFFFFFFF#32 = 0x8A729CC9#32 ∧
    zeroLine.toList.foldl crcByte 0x8A729CC9#32 = 0x3D570562#32 ∧
    zeroLine.toList.foldl crcByte 0x3D570562#32 = 0x7400F70D#32 ∧
    zeroLine.toList.foldl crcByte 0x7400F70D#32 = 0xF2697AA7#32 := by
  refine ⟨?_, ?_, ?_, ?_⟩ <;> decide +kernel
theorem test_crc_zeroImage : imageCrc (List.replicate 4 zeroLine) = 0x0D968558#32 := by
  obtain ⟨h1, h2, h3, h4⟩ := test_crc_zeroLines
  simp only [imageCrc, journalCrc, List.replicate, List.flatMap_cons, List.flatMap_nil, List.append_nil, List.foldl_append, h1, h2, h3, h4]
  decide
theorem test_crc_empty : journalCrc [] = 0#32 := by decide +kernel
/-- The check value usually given for a CRC of R79's form: over the nine ASCII digits 1 to 9. -/
theorem test_crc_digits :
    journalCrc [0x31, 0x32, 0x33, 0x34, 0x35, 0x36, 0x37, 0x38, 0x39] = 0xCBF43926#32 := by decide +kernel
theorem test_littleEndian : leBytes 4 0x01020304 = [4, 3, 2, 1] ∧ leValue [4, 3, 2, 1] = 0x01020304 := by decide
/-- R198: IDENT. -/
theorem test_ident : State.reset.mgmtRead 0 = 0x24100001#32 := by decide
/-- R185: DEVSTATE of a RUNNING, CAPTURING part. -/
theorem test_devstate : rig.mgmtRead 6 = 0x0102#32 := by decide +kernel
theorem test_noticeLength :
    (Notice.bytes ⟨.journalLow 1 2 3 4 5, 0, 0, 1⟩ 1).length = 32 ∧ (Notice.bytes ⟨.noticeOverrun 1, 0, 0, 1⟩ 1).length = 32 ∧
    (Notice.bytes ⟨.captureFault 1 2 3 (some id1), 0, 0, 1⟩ 0).take 2 = [8, 2] := by decide

/-! ### The areas of the small part are apart -/

def apartB (a b : Option Area) : Bool := a.all (fun x => b.all (fun y => !x.meets y))

theorem apart_of_apartB {a b : Option Area} (h : apartB a b = true) : Apart a b := by
  rintro x y rfl rfl n ⟨hx, hy⟩
  simp only [apartB, Option.all_some, Area.meets, Area.holds, Bool.not_eq_true', decide_eq_false_iff_not, decide_eq_true_eq]
    at h hx hy
  omega

theorem areasDisjoint_of (s : State) (h1 : ∀ i j : Fin 16, i ≠ j → apartB s.windows[i].area? s.windows[j].area? = true)
    (h2 : ∀ i : Fin 16, apartB s.windows[i].area? s.commandArea? = true ∧ apartB s.windows[i].area? s.journalArea? = true ∧
      apartB s.windows[i].area? s.noticeArea? = true)
    (h3 : apartB s.commandArea? s.journalArea? = true ∧ apartB s.commandArea? s.noticeArea? = true ∧
      apartB s.journalArea? s.noticeArea? = true)
    (h4 : s.mgmt.device ≠ .offline) : AreasDisjoint s :=
  ⟨fun i j hij => apart_of_apartB (h1 i j hij),
    fun i => ⟨apart_of_apartB (h2 i).1, apart_of_apartB (h2 i).2.1, apart_of_apartB (h2 i).2.2⟩,
    apart_of_apartB h3.1, apart_of_apartB h3.2.1, apart_of_apartB h3.2.2, fun h => absurd h h4⟩

theorem rig_areas : AreasDisjoint rig :=
  areasDisjoint_of rig (by decide +kernel) (by decide +kernel) (by decide +kernel) (by decide)

/-- The index of a part with two committed epochs and an OPEN one. -/
def indexed (e : Engine) (target : Option EpochNo) : State :=
  { rig with
    epoch := { rig.epoch with
      engine := e, target := target, current := 3
      index := [⟨1, 0, some 1, .closed, 1, some .command⟩, ⟨2, 2, some 2, .closing, 0, some .quiet⟩, ⟨3, 3, none, .opened, 0, none⟩] } }

theorem engineSound_indexed (e : Engine) (target : Option EpochNo) (h1 : e ≠ .absent) (h2 : target.isSome = e.fenceUp)
    (h3 : ∀ t, target = some t → t ∈ ([1, 2, 3] : List EpochNo)) : EngineSound (indexed e target) := by
  refine ⟨⟨fun _ => h1, fun _ => rfl⟩, fun h => absurd h h1, fun _ => ?_, (by decide : (3 : Nat) ≤ 16), by simp [indexed], by simp [indexed], h2, h3⟩
  exact ⟨[⟨1, 0, some 1, .closed, 1, some .command⟩, ⟨2, 2, some 2, .closing, 0, some .quiet⟩], ⟨3, 3, none, .opened, 0, none⟩,
    rfl, rfl, rfl, by decide⟩

theorem rig_notice : NoticeSound rig := by unfold NoticeSound; decide +kernel

theorem noSlots {s : State} (h : ∀ i : Fin 8, s.capture.slots[i] = none) {P : Fin 8 → CaptureSlot → Prop} :
    ∀ (i : Fin 8) (c : CaptureSlot), s.capture.slots[i] = some c → P i c := fun i c hc => by rw [h i] at hc; cases hc

/-! ### Witnesses: steps, resets and requests -/

theorem witness_EmptyQueueIsOneMicrosecond : rig.pending = [] ∧ rig.serial = [] ∧ rig.resetAsserted = false := ⟨rfl, rfl, rfl⟩

/-- Under RESET: a command, a frame of forty bits and one of none, and a pin event. -/
theorem witness_PowerOnResetHoldsThePart :
    exec .powerOnReset rig = .next (powerOn rig) ∧ (powerOn rig).resetAsserted = true ∧ (powerOn rig).pending = [] ∧
    (powerOn rig).serial = [] ∧ ({ powerOn rig with serial := [.bit true] } : State).serial = .bit true :: [] ∧
    Instr.windowSet ≠ .powerOnReset ∧ Instr.windowSet ≠ .resetDeasserted ∧ frameBits .windowSet = none ∧
    frameBits (.cwEnable true) = some 40 ∧ frameBits (.frameAbandoned []) = some 0 :=
  ⟨rfl, rfl, rfl, rfl, rfl, by decide, by decide, rfl, rfl, rfl⟩

theorem witness_ResetsEmptyTheHoldQueue :
    (holding rig (heldA .order)).atRest ∧ heldA .order ∈ (holding rig (heldA .order)).hold.entries ∧
    (heldA .order).request.id ∈ (holding rig (heldA .order)).ulink.outstanding := by
  refine ⟨⟨rfl, rfl⟩, ?_, ?_⟩ <;> decide +kernel

/-- The form check fails on an empty length, a length above 64 and a line crossed by one byte; the other clause is a duplicate. -/
theorem witness_MalformedOrDuplicateIsRefused :
    rig.atRest ∧
    (∀ r ∈ [rd 0x10000 0, rd 0x10000 65, rd 0x10001 64],
      ¬ (1 ≤ r.length ∧ r.length ≤ 64 ∧ r.addr.toNat % 64 + r.length ≤ 64)) ∧
    (wr 0x10000 1).id ∈ (holding rig (heldA .order)).ulink.outstanding := by
  refine ⟨⟨rfl, rfl⟩, ?_, ?_⟩ <;> decide +kernel

/-- Both ends of the length; OFFLINE, a read of a GUARD window, and a write one byte below the JOURNAL window. -/
theorem witness_RequestOutsideTheAreasIsForwarded :
    rig.atRest ∧ State.reset.atRest ∧
    (∀ r ∈ [wr 0x3F 1, wr 0x10000 64, rd 0x30000 64, wr 0xFFFF 1],
      1 ≤ r.length ∧ r.length ≤ 64 ∧ r.addr.toNat % 64 + r.length ≤ 64 ∧ r.id ∉ rig.ulink.outstanding ∧
      r.id ∉ State.reset.ulink.outstanding) ∧
    State.reset.mgmt.device = .offline ∧
    ((rd 0x30000 64).kind = .read ∧
      ∀ w : Fin 16, rig.windows[w].mode = .journal → holdsOpt rig.windows[w].area? (rd 0x30000 64).addr = false) ∧
    (touches (wr 0xFFFF 1) rig.noticeArea? = false ∧
      (∀ w : Fin 16, holdsOpt rig.windows[w].area? (wr 0xFFFF 1).addr = false) ∧
      holdsOpt rig.commandArea? (wr 0xFFFF 1).addr = false ∧ holdsOpt rig.journalArea? (wr 0xFFFF 1).addr = false) := by
  refine ⟨⟨rfl, rfl⟩, ⟨rfl, rfl⟩, ?_, ?_, ?_, ?_⟩ <;> decide +kernel

/-- The last byte of the notice area, the first byte of line 60, the last byte of the journal area, and the first of a GUARD
window. -/
theorem witness_ProtectedWriteIsRefused :
    rig.atRest ∧ AreasDisjoint rig ∧ rig.mgmt.device ≠ .offline ∧
    (∀ r ∈ [wr 0x2001FF 1, wr 0x400F00 1, wr 0x113FFF 1, wr 0x30000 1],
      1 ≤ r.length ∧ r.length ≤ 64 ∧ r.addr.toNat % 64 + r.length ≤ 64 ∧ r.id ∉ rig.ulink.outstanding ∧ r.kind = .write) ∧
    touches (wr 0x2001FF 1) rig.noticeArea? = true ∧
    (holdsOpt rig.commandArea? (wr 0x400F00 1).addr = true ∧
      60 ≤ ((wr 0x400F00 1).addr.toNat - rig.mgmt.cwBase.toNat) / 64) ∧
    holdsOpt rig.journalArea? (wr 0x113FFF 1).addr = true ∧
    touches (wr 0x30000 1) rig.noticeArea? = false ∧ rig.windows[(1 : Fin 16)].mode = .guard ∧
    holdsOpt rig.windows[(1 : Fin 16)].area? (wr 0x30000 1).addr = true := by
  refine ⟨⟨rfl, rfl⟩, rig_areas, ?_, ?_, ?_, ?_, ?_, ?_, ?_, ?_⟩ <;> decide +kernel

/-- A whole write of a line whose first bytes are the format marker. -/
def markedLine (id : Ident) (addr : Addr) : Request :=
  ⟨.write, id, addr, 64, [0x1E, 0x7C] ++ zeroBytes 62, List.replicate 64 true⟩

/-- Line 59 and line 0; a foreign stream, a partial write, an absent marker, a full queue, and a queue with one place left. -/
theorem witness_CommandLineWriteIsForwardedAndOffered :
    let full : State := { rig with cmd.queue := List.replicate 8 (queued 12 []) }
    let nearly : State := { rig with cmd.queue := List.replicate 7 (queued 12 []) }
    rig.atRest ∧ full.atRest ∧ AreasDisjoint full ∧
    (∀ r ∈ [markedLine id0 0x400EC0, markedLine id1 0x400000, wr 0x400000 1, wr 0x400000 64],
      1 ≤ r.length ∧ r.length ≤ 64 ∧ r.addr.toNat % 64 + r.length ≤ 64 ∧ r.id ∉ full.ulink.outstanding ∧ r.kind = .write ∧
      touches r full.noticeArea? = false ∧ holdsOpt full.commandArea? r.addr = true ∧
      (r.addr.toNat - full.mgmt.cwBase.toNat) / 64 ≤ 59) ∧
    full.mgmt.cmdStreams.getLsbD id1.stream.toNat = false ∧ full.mgmt.cmdStreams.getLsbD id0.stream.toNat = true ∧
    ¬ ((wr 0x400000 1).length = 64) ∧ fieldAt (lineOfBytes (wr 0x400000 64).data) 0 2 ≠ 0x7C1E ∧
    fieldAt (lineOfBytes (markedLine id0 0x400EC0).data) 0 2 = 0x7C1E ∧
    (∀ b ∈ (markedLine id0 0x400EC0).mask, b = true) ∧ 8 ≤ full.cmd.queue.length ∧ nearly.cmd.queue.length < 8 := by
  refine ⟨⟨rfl, rfl⟩, ⟨rfl, rfl⟩,
    areasDisjoint_of _ (by decide +kernel) (by decide +kernel) (by decide +kernel) (by decide), ?_, ?_, ?_, ?_, ?_, ?_, ?_, ?_, ?_⟩
    <;> decide +kernel

/-- The common premises at both ends of the window, and each clause: a fence, a granule held in order, a hit, all slots busy, and a
full journal. -/
theorem witness_JournaledRequestIsHeldOrForwarded :
    rig.atRest ∧ AreasDisjoint rig ∧ rig.mgmt.device = .running ∧ rig.windows[(0 : Fin 16)].mode = .journal ∧
    (∀ r ∈ [wr 0x10000 1, wr 0x1FFFF 1, rd 0x10000 64],
      1 ≤ r.length ∧ r.length ≤ 64 ∧ r.addr.toNat % 64 + r.length ≤ 64 ∧ r.id ∉ rig.ulink.outstanding ∧
      touches r rig.noticeArea? = false ∧ holdsOpt rig.windows[(0 : Fin 16)].area? r.addr = true) ∧
    (rigIn .draining (some 1)).epoch.engine = .draining ∧
    (withSlot rig slotA).capture.slots[(7 : Fin 8)] = some slotA ∧ slotA.granule = granuleOf (wr 0x10000 1).addr ∧
    (∀ i : Fin 8, rig.capture.slots[i] = none) ∧ rig.hold.entries = [] ∧
    granuleOf (wr 0x10000 1).addr ∉ rig.capture.table ∧
    (∀ i : Fin 8, ({ rig with capture.slots := Vector.replicate 8 (some slotA) } : State).capture.slots[i] ≠ none) ∧
    slotA.granule ≠ granuleOf (wr 0x1FFFF 1).addr ∧
    (let full : Journal := { rig.journal with head := 256 }; (full.head - full.release).toNat = full.slots) := by
  refine ⟨⟨rfl, rfl⟩, rig_areas, ?_, ?_, ?_, ?_, ?_, ?_, ?_, ?_, ?_, ?_, ?_, ?_⟩ <;> decide +kernel

theorem witness_JournaledWriteIsGivenACaptureSlot :
    rig.atRest ∧ AreasDisjoint rig ∧ rig.mgmt.device = .running ∧ rig.windows[(0 : Fin 16)].mode = .journal ∧
    rig.epoch.engine = .capturing ∧ (wr 0x1FFFF 1).id ∉ rig.ulink.outstanding ∧ touches (wr 0x1FFFF 1) rig.noticeArea? = false ∧
    holdsOpt rig.windows[(0 : Fin 16)].area? (wr 0x1FFFF 1).addr = true ∧
    (∀ (i : Fin 8) (c : CaptureSlot), rig.capture.slots[i] = some c → c.granule ≠ granuleOf (wr 0x1FFFF 1).addr) ∧
    (∀ e ∈ rig.hold.entries, granuleOf e.request.addr ≠ granuleOf (wr 0x1FFFF 1).addr) ∧
    granuleOf (wr 0x1FFFF 1).addr ∉ rig.capture.table ∧ (∃ i : Fin 8, rig.capture.slots[i] = none) ∧
    (rig.journal.head - rig.journal.release).toNat < rig.journal.slots := by
  refine ⟨⟨rfl, rfl⟩, rig_areas, ?_, ?_, ?_, ?_, ?_, ?_, noSlots (by decide +kernel), ?_, ?_, ?_, ?_⟩ <;> decide +kernel

/-! ### Witnesses: links and captures -/

theorem witness_UpstreamLinkResetDropsRequests : (holding rig (heldA .order)).atRest := ⟨rfl, rfl⟩

/-- A state in which the first n D-link identities are in use. -/
def inUseBelow (n : Nat) : State := { rig with dlink.inUse := (List.range n).map (fun k => ⟨identOfNat k, .status⟩) }

theorem identOfNat_onto (id : Ident) : ∃ n < 16384, identOfNat n = id := by
  rcases id with ⟨stream, tag⟩
  refine ⟨stream.toNat * 256 + tag.toNat, by omega, ?_⟩
  have h1 : (stream.toNat * 256 + tag.toNat) / 256 = stream.toNat := by omega
  have h2 : BitVec.ofNat 8 (stream.toNat * 256 + tag.toNat) = tag := by
    apply BitVec.eq_of_toNat_eq; rw [BitVec.toNat_ofNat]; omega
  simp only [identOfNat, h1, h2, BitVec.ofNat_toNat, BitVec.setWidth_eq]

theorem none_free (n : Nat) (hn : 16384 ≤ n) (id : Ident) : ¬ ∀ u ∈ (inUseBelow n).dlink.inUse, u.id ≠ id := by
  obtain ⟨k, hk, h⟩ := identOfNat_onto id
  exact fun all => all ⟨identOfNat k, .status⟩ (List.mem_map_of_mem (List.mem_range.2 (by omega))) h

/-- Nothing ready; no identity free; and a request in the REPORT class alone, served last, which is the fourth class looked at, with the
wanted identity free and in use. -/
theorem witness_ArbiterIssuesInCyclicOrder :
    let s : State := { rig with dlink.report := [readLine 0 .notice] }
    let taken : State := { s with dlink.inUse := [⟨id1, .status⟩] }
    s.atRest ∧ (∀ c, rig.dlink.queue c = []) ∧ (∀ n, 16384 ≤ n → ∀ id, ¬ ∀ u ∈ (inUseBelow n).dlink.inUse, u.id ≠ id) ∧
    (∀ m < 3, s.dlink.queue (Nat.repeat TrafficClass.next (m + 1) s.dlink.lastServed) = []) ∧
    s.dlink.queue (Nat.repeat TrafficClass.next 4 s.dlink.lastServed) = [readLine 0 .notice] ∧
    (∀ u ∈ s.dlink.inUse, u.id ≠ id1) ∧ (¬ ∀ u ∈ taken.dlink.inUse, u.id ≠ id1) ∧ ∀ u ∈ taken.dlink.inUse, u.id ≠ id0 := by
  refine ⟨⟨rfl, rfl⟩, fun c => by cases c <;> rfl, none_free, ?_, ?_, ?_, ?_, ?_⟩ <;> decide +kernel

/-- A forwarded request kept and dropped, an identity that is free, and work that a soft reset has ended. -/
theorem witness_ForwardedRequestIsAnswered :
    (∀ dropped : Bool, (usedFor rig (.forwarded id0 .read dropped false)).dlink.originOf id1 = some (.forwarded id0 .read dropped false)) ∧
    id0 ∈ (usedFor rig (.forwarded id0 .read false false)).ulink.outstanding ∧ (∀ u ∈ rig.dlink.inUse, u.id ≠ id1) ∧
    (usedFor rig .abandoned).dlink.originOf id1 = some .abandoned := by
  refine ⟨?_, ?_, ?_, ?_⟩ <;> decide +kernel

/-- A walk in a phase, with this many answers awaited. -/
def walking (phase : RestorePhase) (awaited : Nat) (abort : Bool) : State :=
  let s := indexed .restoring (some 1)
  { s with restore := { s.restore with phase := phase, cursor := 2, awaited := awaited, abortPending := abort } }

/-- A slot that may issue its reads and a record in hand that may be written back, and both with a forwarded request of the granule's
last byte still waiting, a write and a read. -/
theorem witness_ReadsAndWriteBacksWaitForTheGranule :
    let s := withSlot (walking .writingBack 4 false) slotA
    let waits (u : State) (g : Granule) : Prop := ∃ q ∈ u.dlink.forward, q.origin.byCaptureUnit = true ∧ granuleOf q.addr = g
    s.atRest ∧ s.capture.slots[(7 : Fin 8)] = some slotA ∧ slotA.phase = .readingOld ∧ slotA.readsIssued = false ∧
    s.restore.phase = .writingBack ∧ s.restore.issued = false ∧ ¬ waits s slotA.granule ∧ ¬ waits s (granuleOf (writeBackAddr s)) ∧
    (∀ r ∈ [wr 0x100FF 1, rd 0x100FF 1],
      waits { s with dlink.forward := [forwardOf r (.forwarded id0 r.kind false true)] } slotA.granule) ∧
    ∀ r ∈ [wr 0xFF 1, rd 0xFF 1],
      waits { s with dlink.forward := [forwardOf r (.forwarded id0 r.kind false true)] } (granuleOf (writeBackAddr s)) := by
  refine ⟨⟨rfl, rfl⟩, ?_, ?_, ?_, ?_, ?_, ?_, ?_, ?_, ?_⟩ <;> decide +kernel

/-- The third answer and the fourth, all OK. -/
theorem witness_OldImageReadIsTaken :
    ∀ awaited ∈ [2, 1],
      let c : CaptureSlot := { slotA with awaited := awaited }
      let s := usedFor (withSlot rig c) (.oldRead 7 3)
      s.dlink.originOf id1 = some (.oldRead 7 3) ∧ s.capture.slots[(7 : Fin 8)] = some c ∧ c.phase = .readingOld ∧
      c.kind = .preImage ∧ (2 ≤ c.awaited ∨ (c.awaited = 1 ∧ (c.errorSeen || DStatus.ok == .error) = false)) := by decide +kernel

theorem witness_CaptureReadFaultIsTaken :
    let c : CaptureSlot := { slotA with awaited := 1 }
    let s := usedFor (withSlot rig c) (.oldRead 7 3)
    s.dlink.originOf id1 = some (.oldRead 7 3) ∧ s.capture.slots[(7 : Fin 8)] = some c ∧ c.phase = .readingOld ∧
    c.kind = .preImage ∧ c.awaited = 1 ∧ (c.errorSeen = true ∨ DStatus.error = .error) ∧
    c.trigger = some (wr 0x10000 1) ∧ (wr 0x10000 1).id ∈ s.ulink.outstanding := by decide +kernel

/-- A slot writing its record, and the answer that acts. -/
def writing (awaited : Nat) : CaptureSlot := { slotA with phase := .writingRecord, awaited := awaited }

/-- The fourth answer and the fifth, with a trigger and without one. -/
theorem witness_RecordWriteIsTaken :
    ∀ awaited ∈ [2, 1], ∀ trigger ∈ [some (wr 0x10000 1), none],
      let c : CaptureSlot := { writing awaited with trigger := trigger }
      let s := usedFor (withSlot rig c) (.record 7)
      s.dlink.originOf id1 = some (.record 7) ∧ s.capture.slots[(7 : Fin 8)] = some c ∧ c.phase = .writingRecord ∧
      c.kind = .preImage ∧ c.trigger = trigger ∧ s.epoch.engine ≠ .draining ∧
      (2 ≤ c.awaited ∨ (c.awaited = 1 ∧ (c.errorSeen || DStatus.ok == .error) = false)) := by decide +kernel

/-- In an engine the fault breaks, and in one it does not, with a trigger and without one. -/
theorem witness_RecordWriteFaultBreaksTheEpoch :
    ∀ e ∈ [Engine.draining, .broken .exhausted], ∀ trigger ∈ [some (wr 0x10000 1), none],
      let c : CaptureSlot := { writing 1 with trigger := trigger }
      let s := usedFor (withSlot (rigIn e none) c) (.record 7)
      s.dlink.originOf id1 = some (.record 7) ∧ s.capture.slots[(7 : Fin 8)] = some c ∧ c.phase = .writingRecord ∧
      c.kind = .preImage ∧ c.trigger = trigger ∧ c.awaited = 1 ∧ s.epoch.engine = e := by decide +kernel

/-- A slot writing its VOID header. -/
def voiding : CaptureSlot := { slotA with phase := .writingRecord, kind := .void, trigger := none, awaited := 1 }

theorem witness_VoidRecordCompletes :
    let s := usedFor (withSlot rig voiding) (.void 7)
    s.atRest ∧ s.dlink.originOf id1 = some (.void 7) ∧ s.capture.slots[(7 : Fin 8)] = some voiding ∧ s.epoch.engine ≠ .draining := by
  refine ⟨⟨rfl, rfl⟩, ?_, ?_, ?_⟩ <;> decide +kernel

theorem witness_VoidWriteFaultBreaksTheEpoch :
    ∀ e ∈ [Engine.draining, .broken .journalFault],
      let s := usedFor (withSlot (rigIn e none) voiding) (.void 7)
      s.dlink.originOf id1 = some (.void 7) ∧ s.capture.slots[(7 : Fin 8)] = some voiding ∧ s.epoch.engine = e := by decide +kernel

/-- A slot that awaits its trigger's response. -/
def forwarding : CaptureSlot := { slotA with phase := .forwarding, awaited := 1 }

theorem witness_TriggerResponseFreesTheSlot :
    let s := usedFor (withSlot rig forwarding) (.trigger 7)
    s.dlink.originOf id1 = some (.trigger 7) ∧ s.capture.slots[(7 : Fin 8)] = some forwarding ∧
    forwarding.trigger = some (wr 0x10000 1) ∧ (wr 0x10000 1).id ∈ s.ulink.outstanding ∧ s.epoch.engine ≠ .draining := by
  decide +kernel

/-- A drain with frontier at or before head. -/
def draining (target : EpochNo) (frontier : Seq) : State :=
  { indexed .draining (some target) with journal.frontier := frontier }

theorem engineSound_draining (target : EpochNo) (frontier : Seq) (h : target ∈ ([1, 2, 3] : List EpochNo)) :
    EngineSound (draining target frontier) :=
  engineSound_indexed .draining (some target) (by decide) rfl (by rintro t ⟨⟩; exact h)

/-- The engine state an event leads to. -/
def engineAfter (c : Instr) (s : State) : Option Engine :=
  match exec c s with
  | .next t => some t.epoch.engine
  | .fault _ | .refused _ => none

/-- Each event that ends a drain: an advance taken, a trigger's answer with the trigger present and absent, a VOID, a record with an
absent trigger, a marker; the last with a walk and, for the OPEN epoch that begins at head, with none. -/
theorem witness_DrainEndStartsTheWalk :
    EngineSound (draining 1 3) ∧ EngineSound (draining 3 2) ∧
    (draining 1 3).epoch.index = [] ++ ⟨1, 0, some 1, .closed, 1, some .command⟩ :: (draining 1 3).epoch.index.drop 1 ∧
    (draining 3 2).epoch.index = (draining 3 2).epoch.index.take 2 ++ ⟨3, 3, none, .opened, 0, none⟩ :: [] ∧
    (let s : State := { draining 1 3 with epoch.advances := [3] }
     s.journal.frontier = s.journal.head ∧ (∀ i : Fin 8, s.capture.slots[i] = none) ∧
     engineAfter .frontierAdvanceReport s = some .restoring) ∧
    (∀ trigger ∈ [some (wr 0x10000 1), none],
      let c : CaptureSlot := { forwarding with trigger := trigger }
      let s := usedFor (withSlot (draining 1 3) c) (.trigger 7)
      s.dlink.originOf id1 = some (.trigger 7) ∧ s.capture.slots[(7 : Fin 8)] = some c ∧
      (∀ j : Fin 8, j ≠ 7 → s.capture.slots[j] = none) ∧ (wr 0x10000 1).id ∈ s.ulink.outstanding ∧
      engineAfter (.triggerResponse id1 .ok) s = some .restoring) ∧
    (let s := usedFor (withSlot (draining 1 2) { voiding with sequence := 2 }) (.void 7)
     s.dlink.originOf id1 = some (.void 7) ∧ engineAfter (.voidWriteAnswer id1 .ok) s = some .restoring) ∧
    (let s := usedFor (withSlot (draining 1 2) { writing 1 with sequence := 2, trigger := none }) (.record 7)
     s.dlink.originOf id1 = some (.record 7) ∧ engineAfter (.recordWriteAnswer id1 .ok) s = some .restoring) ∧
    (let s := usedFor { draining 3 2 with epoch.markers := [⟨2, 1, false⟩] } (.marker 2)
     s.dlink.originOf id1 = some (.marker 2) ∧ s.epoch.markers.find? (fun x => x.sequence == 2) = some ⟨2, 1, false⟩ ∧
     (3 : Seq) = s.journal.head ∧ engineAfter (.markerWriteAnswer id1 .ok) s = some .capturing) ∧
    (let s := usedFor (withSlot (draining 1 1) { voiding with sequence := 2 }) (.void 7)
     s.dlink.originOf id1 = some (.void 7) ∧ engineAfter (.voidWriteAnswer id1 .ok) s = some .draining) := by
  refine ⟨engineSound_draining 1 3 (by decide), engineSound_draining 3 2 (by decide), rfl, rfl, ?_, ?_, ?_, ?_, ?_, ?_⟩ <;>
    decide +kernel

/-! ### Witnesses: markers, reports and the walk -/

/-- A marker's fourth answer, and its fifth with and without an error, in CAPTURING and in a drain with a slot busy. -/
theorem witness_MarkerWriteIsTaken :
    ∀ m ∈ ([⟨2, 2, false⟩, ⟨2, 1, false⟩, ⟨2, 1, true⟩] : List MarkerWrite), ∀ e ∈ [Engine.capturing, .draining],
      let s := usedFor { withSlot (rigIn e none) slotA with epoch.markers := [m] } (.marker 2)
      s.dlink.originOf id1 = some (.marker 2) ∧ s.epoch.markers.find? (fun x => x.sequence == 2) = some m ∧
      (s.epoch.engine ≠ .draining ∨ ∃ j : Fin 8, s.capture.slots[j] ≠ none) := by decide +kernel

/-- A spilled report of the current epoch, and an advance past a marker. -/
theorem witness_EpochControllerTakesReports :
    let s : State := { indexed .capturing none with epoch.allocReports := [⟨3, true⟩], epoch.advances := [3] }
    s.epoch.allocReports = [⟨3, true⟩] ∧ s.epoch.advances = [3] ∧ s.epoch.engine ≠ .draining ∧
    (∀ e ∈ s.epoch.index, e.state = .closing → e.origin.isSome = true) ∧ ∃ e ∈ s.epoch.index, closes s.journal 3 e = true := by
  decide +kernel

/-- The fourth answer and the fifth. -/
theorem witness_RestoreReadIsTaken :
    ∀ awaited ∈ [2, 1],
      let s := usedFor (walking .reading awaited false) (.restoreRead 4)
      s.dlink.originOf id1 = some (.restoreRead 4) ∧ s.restore.phase = .reading ∧ s.restore.abortPending = false ∧
      s.restore.awaited = awaited := by decide +kernel

/-- The third write-back answer and the fourth, above the floor and at it. -/
theorem witness_WriteBackIsTaken :
    ∀ awaited ∈ [2, 1],
      let s := usedFor (walking .writingBack awaited false) .writeBack
      let atFloor : State := { s with restore.floor := 2 }
      s.dlink.originOf id1 = some .writeBack ∧ s.restore.phase = .writingBack ∧ s.restore.awaited = awaited ∧
      s.restore.cursor ≠ s.restore.floor ∧ atFloor.restore.cursor = atFloor.restore.floor := by decide +kernel

theorem witness_PendingAbortStopsTheWalk :
    (∀ awaited ∈ [2, 1],
      let s := usedFor (walking .reading awaited true) (.restoreRead 4)
      s.restore.abortPending = true ∧ s.dlink.originOf id1 = some (.restoreRead 4) ∧ s.restore.awaited = awaited) ∧
    (let s := usedFor (walking .writingBack 1 true) .writeBack
     s.restore.abortPending = true ∧ s.dlink.originOf id1 = some .writeBack ∧ s.restore.awaited = 1 ∧ s.restore.errorSeen = false) := by
  decide +kernel

/-- The record in hand at a cursor, with its header line. -/
def inHand (cursor : Seq) (h : Line) : State :=
  let s := walking .reading 1 false
  usedFor { s with restore := { s.restore with cursor := cursor, hand := (Vector.replicate 5 (some zeroLine)).set 0 (some h) } }
    (.restoreRead 4)

def recordA : CaptureSlot := { slotA with sequence := 0 }

/-- Common premises, and a header for each clause: sequence 0 is an image record of epoch 1, sequence 2 the marker of epoch 2. -/
theorem witness_RecordInHandIsChecked :
    let j := (indexed .restoring (some 1)).journal
    let index := (indexed .restoring (some 1)).epoch.index
    let sound := preImageHeader recordA 0x0D968558#32
    (let s := inHand 0 sound
     s.dlink.originOf id1 = some (.restoreRead 4) ∧ s.restore.phase = .reading ∧ s.restore.abortPending = false ∧
     s.restore.awaited = 1 ∧ s.restore.errorSeen = false ∧ (s.restore.hand.set 4 (some zeroLine))[0].getD zeroLine = sound) ∧
    headerCheckOk zeroLine = false ∧
    (headerCheckOk (voidHeader slotA) = true ∧ kindOk (voidHeader slotA) index 2 = false) ∧
    (kindOk sound index 4 = true ∧ headerSequence sound ≠ 4) ∧
    entryHolding j index 0 = some ⟨1, 0, some 1, .closed, 1, some .command⟩ ∧
    headerEpoch (preImageHeader { recordA with epoch := 2 } 0) ≠ 1 ∧
    headerImageCrc (preImageHeader recordA 0) ≠ 0x0D968558#32 ∧
    (headerCheckOk sound = true ∧ kindOk sound index 0 = true ∧ headerSequence sound = 0 ∧ headerEpoch sound = 1 ∧
      headerImageCrc sound = 0x0D968558#32 ∧ headerKind sound = 1) ∧
    (let h := voidHeader recordA
     headerCheckOk h = true ∧ kindOk h index 0 = true ∧ headerSequence h = 0 ∧ headerEpoch h = 1 ∧ headerKind h = 3 ∧
     (0 : Seq) = (inHand 0 h).restore.floor) ∧
    (let h := markHeader 2 2 0 0 .quiet
     headerCheckOk h = true ∧ kindOk h index 2 = true ∧ headerSequence h = 2 ∧
     (entryHolding j index 2).any (fun e => headerEpoch h == e.number) = true ∧ headerKind h = 2 ∧
     (2 : Seq) ≠ (inHand 2 h).restore.floor) := by
  refine ⟨?_, ?_, ?_, ?_, ?_, ?_, ?_, ?_, ?_, ?_⟩ <;> decide +kernel

theorem witness_WalkEndCompletesTheRollback :
    let s : State := { indexed .restoring (some 2) with restore.report := some .walkEnd }
    s.atRest ∧ EngineSound s ∧ s.restore.report = some .walkEnd ∧ s.epoch.engine = .restoring ∧ s.epoch.target = some 2 ∧
    s.epoch.index = [⟨1, 0, some 1, .closed, 1, some .command⟩] ++ ⟨2, 2, some 2, .closing, 0, some .quiet⟩ ::
      [⟨3, 3, none, .opened, 0, none⟩] := by
  exact ⟨⟨rfl, rfl⟩, engineSound_indexed .restoring (some 2) (by decide) rfl (by rintro t ⟨⟩; decide), rfl, rfl, rfl, rfl⟩

theorem witness_RestoreFaultAndStopBreakTheEngine :
    ∀ r ∈ [RestoreReport.fault .image, .stop],
      let s : State := { indexed .restoring (some 2) with restore.report := some r }
      s.restore.report = some r ∧ s.epoch.engine = .restoring ∧ s.epoch.target = some 2 := by decide +kernel

/-! ### Witnesses: notices, the status block, the hold queue and the timers -/

def noticeA : Notice := ⟨.epochBroken .exhausted 1, 0, 0, 1⟩

/-- A ring write out, with this many notices in the buffer and losses. -/
def writingNotice (n lost : Nat) (configured : Bool) : State :=
  usedFor { rig with notice := { (if configured then rig.notice else NoticeUnit.reset) with
    buffer := List.replicate n noticeA, overrunCount := lost, inFlight := some 0 } } .notice

/-- The last notice of the buffer, and a full buffer with losses. -/
theorem witness_NoticeIsWritten :
    ∀ p ∈ [(1, 0), (16, 2)],
      let s := writingNotice p.1 p.2 true
      NoticeSound s ∧ s.dlink.originOf id1 = some .notice ∧ s.notice.inFlight = some 0 ∧ s.notice.configured = true ∧
      s.notice.pathStopped = false ∧ s.notice.buffer = noticeA :: List.replicate (p.1 - 1) noticeA := by
  unfold NoticeSound; decide +kernel

/-- A ring that stands and one that is cleared; the cleared one with a full buffer and losses too. -/
theorem witness_NoticePathFaultStopsTheRing :
    (∀ configured : Bool,
      let s := writingNotice 1 0 configured
      s.dlink.originOf id1 = some .notice ∧ s.notice.inFlight = some 0 ∧ s.notice.configured = configured) ∧
    ∀ p ∈ [(1, 0), (16, 2)],
      let s := writingNotice p.1 p.2 false
      s.notice.inFlight = some 0 ∧ s.notice.configured = false ∧ s.notice.overrunCount = p.2 ∧ NoticeSound s := by
  unfold NoticeSound; decide +kernel

/-- A status write at a line. -/
def statusAt (line : Fin 4) (stopping : Bool) : StatusWrite := ⟨0x400000, Vector.replicate 4 zeroLine, line, stopping⟩

/-- A request with the writer free and with it busy; lines 60 and 62 go on, line 63 and a stopping line end. -/
theorem witness_StatusBlockIsWritten :
    (let s : State := { rig with status.requests := 1 }
     s.status.requests = 0 + 1 ∧ s.mgmt.device ≠ .offline ∧ s.status.inFlight = none) ∧
    ∀ w ∈ [statusAt 0 false, statusAt 2 false, statusAt 3 false, statusAt 0 true],
      let s := usedFor { rig with status.inFlight := some w, status.requests := 1 } .status
      s.dlink.originOf id1 = some .status ∧ s.status.inFlight = some w ∧ s.status.inFlight.isSome = true ∧
      (w.stopping = true ∨ w.line = 3 ∨ ∃ k : Fin 4, k.val = w.line.val + 1) := by decide +kernel

/-- Exactly at tHOLD with each kind of cause, one microsecond below it, and an exhaustion report in CAPTURING and elsewhere. -/
theorem witness_HeldRequestExpires :
    (∀ cause ∈ [HoldCause.order, .fence, .journalFull],
      let s := holding rig (heldA cause)
      heldA cause ∈ s.hold.entries ∧ (s.hold.entries.map (fun x => x.request.id)).Nodup ∧
      (heldA cause).request.id ∈ s.ulink.outstanding ∧ s.hold.tHold = (s.mgmt.time - (heldA cause).arrival).toNat ∧
      (heldA cause).exhausted = false) ∧
    ¬ (rig.hold.tHold ≤ (rig.mgmt.time - ({ heldA .order with arrival := 3001 } : HeldEntry).arrival).toNat) ∧
    (∀ e ∈ [Engine.capturing, .draining], ({ rigIn e none with epoch.exhaustions := 1 } : State).epoch.exhaustions = 0 + 1) := by
  decide +kernel

/-- Two held entries, one just below tHOLD and one just at it; and a lone young one under the fence and in BROKEN(EXHAUSTED). -/
theorem witness_PassJudgesHeldEntries :
    (let young : HeldEntry := { heldA .slotWait with arrival := 3001, request := { wr 0x10000 1 with id := id1 } }
     let s : State := { rig with hold.entries := [heldA .order, young], hold.passes := 1, ulink.outstanding := [id0, id1] }
     s.hold.passes = 0 + 1 ∧ (s.hold.entries.map (fun e => e.request.id)).Nodup ∧
     (∀ e ∈ s.hold.entries, e.request.id ∈ s.ulink.outstanding) ∧
     s.hold.entries.map (fun e => decide (s.hold.tHold ≤ (s.mgmt.time - e.arrival).toNat)) = [true, false]) ∧
    ∀ p ∈ [(Engine.draining, true), (.broken .exhausted, false)],
      let e : HeldEntry := { heldA .slotWait with arrival := 3001 }
      let s : State := { holding (rigIn p.1 none) e with hold.passes := 1 }
      s.hold.passes = 0 + 1 ∧ s.hold.entries = [e] ∧ decide (s.hold.tHold ≤ (s.mgmt.time - e.arrival).toNat) = false ∧
      s.epoch.engine = p.1 ∧ s.epoch.engine.fenceUp = p.2 ∧
      (s.capture.slots.toList.any (fun o => o.any (fun c => c.granule == granuleOf e.request.addr))) = false := by decide +kernel

/-- R89, R93: one pass over four entries of a CAPTURING part. An entry past tHOLD whose granule is busy expires; a write that misses is
given a slot; a younger read of that granule stays in order; and a read of another granule is forwarded. -/
theorem test_passOverFourEntries :
    let entry (tag : Byte) (k : ReqKind) (a : Addr) (arrival : BitVec 32) : HeldEntry :=
      ⟨⟨k, ⟨0, tag⟩, a, 1, (if k = .write then [1] else []), (if k = .write then [true] else [])⟩, 0, .order, arrival, false⟩
    let s : State := { withSlot rig slotA with
      hold.entries := [entry 1 .write 0x10000 0, entry 2 .write 0x10100 4000, entry 3 .read 0x10100 4000, entry 4 .read 0x10200 4000]
      hold.passes := 1
      ulink.outstanding := [⟨0, 1⟩, ⟨0, 2⟩, ⟨0, 3⟩, ⟨0, 4⟩] }
    let t := takePass s
    t.hold.entries.map (fun e => (e.request.id.tag, e.cause)) = [(3, .order)] ∧
    t.ulink.returned = [⟨.write, ⟨0, 1⟩, .expired, []⟩] ∧ t.hold.passes = 1 ∧ t.dlink.forward.map (fun q => q.addr) = [0x10200] ∧
    (t.capture.slots[(0 : Fin 8)].map (fun c => c.granule)) = some 0x101 := by decide +kernel

/-- The quiet timer at 0 with nothing captured and with one capture, and the flush timer at 0. -/
theorem witness_TimersExpire :
    (∀ count ∈ [0, 1],
      let s : State := { rig with epoch.quiet := .running 0, epoch.captureCount := count }
      s.epoch.quiet = .running 0 ∧ s.epoch.engine = .capturing ∧ s.epoch.captureCount = count ∧ s.epoch.index.length < 16 ∧
      (s.journal.head - s.journal.release).toNat < s.journal.slots ∧ s.epoch.allocReports = []) ∧
    ({ rig with notice.flush := .running 0 } : State).notice.flush = .running 0 := by decide +kernel

/-! ### Witnesses: commands, by the result of each check -/

def windowBytes (index mode quiet guard : Byte) (base limit : Nat) : List Byte :=
  [index, mode, quiet, guard] ++ zeroBytes 4 ++ leBytes 8 base ++ leBytes 8 limit

/-- What `offers` asks of the command at the head of the queue. -/
theorem witness_offers (s : State) (op : Byte) (args : List Byte) (h : s.mgmt.device ≠ .offline) :
    (give s op args).offers (queued op args) [] op := ⟨h, rfl, rfl⟩

theorem witness_WindowSetIsJudgedAndApplied :
    let listening : State := { rig with mgmt.device := .listening }
    let counted : State := { rig with epoch.captureCount := 1 }
    resultOf .windowSet (give rig 1 (windowBytes 16 0 0 0 0 0)) = some .badArgument ∧
    resultOf .windowSet (give rig 1 (windowBytes 15 1 0 0 0x20000 0x21000)) = some .badArgument ∧
    resultOf .windowSet (give listening 1 (windowBytes 15 1 0 0 0x20000 0x20FFF)) = some .noJournal ∧
    resultOf .windowSet (give counted 1 (windowBytes 0 0 0 0 0 0)) = some .epochActive ∧
    resultOf .windowSet (give (withSlot rig slotA) 1 (windowBytes 0 0 0 0 0 0)) = some .busy ∧
    resultOf .windowSet (give rig 1 (windowBytes 15 2 0 1 0x1F000 0x20FFF)) = some .overlap ∧
    resultOf .windowSet (give rig 1 (windowBytes 15 1 1 0 0x20000 0x20FFF)) = some .done := by
  refine ⟨?_, ?_, ?_, ?_, ?_, ?_, ?_⟩ <;> decide +kernel

def journalBytes (base n : Nat) : List Byte := leBytes 4 n ++ zeroBytes 4 ++ leBytes 8 base

theorem witness_JournalSetIsJudgedAndApplied :
    let s : State := { rig with mgmt.device := .listening }
    resultOf .journalSet (give rig 2 (journalBytes 0x800000 256)) = some .state ∧
    resultOf .journalSet (give s 2 (journalBytes 0x800800 256)) = some .badArgument ∧
    resultOf .journalSet (give s 2 (journalBytes 0x800000 255)) = some .badArgument ∧
    resultOf .journalSet (give s 2 (journalBytes 0x400000 256)) = some .overlap ∧
    resultOf .journalSet (give s 2 (journalBytes 0x800000 1048576)) = some .done := by
  refine ⟨?_, ?_, ?_, ?_, ?_⟩ <;> decide +kernel

theorem witness_JournalClearIsJudgedAndApplied :
    let noWindow (s : State) : State := { s with windows := windowsReset }
    resultOf .journalClear (give { rig with mgmt.device := .listening } 3 []) = some .noJournal ∧
    resultOf .journalClear (give (rigIn .draining (some 1)) 3 []) = some .busy ∧
    resultOf .journalClear (give rig 3 []) = some .state ∧
    resultOf .journalClear (give (noWindow (withSlot rig slotA)) 3 []) = some .busy ∧
    resultOf .journalClear (give (noWindow rig) 3 []) = some .done := by
  refine ⟨?_, ?_, ?_, ?_, ?_⟩ <;> decide +kernel

theorem witness_JournalReleaseIsJudgedAndApplied :
    EngineSound (indexed .capturing none) ∧ EngineSound (indexed (.broken .aborted) (some 1)) ∧
    resultOf .journalRelease (give { rig with mgmt.device := .listening } 4 (leBytes 4 1)) = some .noJournal ∧
    resultOf .journalRelease (give (indexed .draining (some 1)) 4 (leBytes 4 1)) = some .busy ∧
    resultOf .journalRelease (give (indexed .capturing none) 4 (leBytes 4 9)) = some .unknownEpoch ∧
    resultOf .journalRelease (give (indexed .capturing none) 4 (leBytes 4 0)) = some .state ∧
    resultOf .journalRelease (give (indexed (.broken .aborted) (some 1)) 4 (leBytes 4 1)) = some .busy ∧
    resultOf .journalRelease (give (indexed (.broken .aborted) (some 2)) 4 (leBytes 4 1)) = some .done ∧
    resultOf .journalRelease (give (indexed .capturing none) 4 (leBytes 4 1)) = some .done := by
  refine ⟨engineSound_indexed _ _ (by decide) rfl (by rintro t ⟨⟩), engineSound_indexed _ _ (by decide) rfl (by rintro t ⟨⟩; decide),
    ?_, ?_, ?_, ?_, ?_, ?_, ?_⟩ <;> decide +kernel

theorem witness_EpochCommitIsJudgedAndApplied :
    let full : State := { rig with journal.head := 256 }
    let crowded : State := { rig with epoch.index := List.replicate 16 ⟨1, 0, none, .opened, 0, none⟩ }
    resultOf .epochCommit (give { rig with mgmt.device := .listening } 5 []) = some .noJournal ∧
    resultOf .epochCommit (give (rigIn .restoring (some 1)) 5 []) = some .state ∧
    resultOf .epochCommit (give crowded 5 []) = some .indexFull ∧
    resultOf .epochCommit (give full 5 []) = some .journalFull ∧
    resultOf .epochCommit (give rig 5 []) = some .started ∧ rig.epoch.allocReports = [] := by
  refine ⟨?_, ?_, ?_, ?_, ?_, ?_⟩ <;> decide +kernel

/-- Every answer; a rollback that waits for a slot, one that drains at once and walks, and one with no record to walk. -/
theorem witness_EpochRollbackIsJudgedAndApplied :
    EngineSound (indexed .capturing none) ∧ EngineSound (indexed (.broken .aborted) (some 1)) ∧
    engineAfter .epochRollback (give (indexed .capturing none) 6 (leBytes 4 2)) = some .restoring ∧
    engineAfter .epochRollback (give (indexed .capturing none) 6 (leBytes 4 0)) = some .capturing ∧
    engineAfter .epochRollback (give (withSlot (indexed .capturing none) slotA) 6 (leBytes 4 2)) = some .draining ∧
    resultOf .epochRollback (give { rig with mgmt.device := .listening } 6 []) = some .noJournal ∧
    resultOf .epochRollback (give (indexed .restoring (some 1)) 6 []) = some .busy ∧
    resultOf .epochRollback (give (indexed (.broken .exhausted) none) 6 []) = some .notRecoverable ∧
    resultOf .epochRollback (give (indexed .capturing none) 6 (leBytes 4 9)) = some .unknownEpoch ∧
    resultOf .epochRollback (give (indexed (.broken .aborted) (some 1)) 6 (leBytes 4 2)) = some .state ∧
    resultOf .epochRollback (give (indexed (.broken .aborted) (some 1)) 6 (leBytes 4 1)) = some .started ∧
    resultOf .epochRollback (give (withSlot (indexed .capturing none) slotA) 6 (leBytes 4 2)) = some .started ∧
    (let s := indexed .capturing none
     s.journal.frontier = s.journal.head ∧ (∀ i : Fin 8, s.capture.slots[i] = none)) := by
  refine ⟨engineSound_indexed _ _ (by decide) rfl (by rintro t ⟨⟩), engineSound_indexed _ _ (by decide) rfl (by rintro t ⟨⟩; decide),
    ?_, ?_, ?_, ?_, ?_, ?_, ?_, ?_, ?_, ?_, ?_⟩ <;> decide +kernel

theorem witness_RollbackAbortIsJudgedAndApplied :
    resultOf .rollbackAbort (give { rig with mgmt.device := .listening } 7 []) = some .noJournal ∧
    resultOf .rollbackAbort (give (indexed .draining (some 1)) 7 []) = some .done ∧
    resultOf .rollbackAbort (give (walking .reading 5 false) 7 []) = some .started ∧
    resultOf .rollbackAbort (give (walking .reading 5 true) 7 []) = some .busy ∧
    resultOf .rollbackAbort (give rig 7 []) = some .state := by
  refine ⟨?_, ?_, ?_, ?_, ?_⟩ <;> decide +kernel

theorem witness_EpochResumeIsJudgedAndApplied :
    resultOf .epochResume (give { rig with mgmt.device := .listening } 8 []) = some .noJournal ∧
    resultOf .epochResume (give rig 8 []) = some .state ∧
    resultOf .epochResume (give (withSlot (indexed (.broken .aborted) (some 1)) slotA) 8 []) = some .busy ∧
    resultOf .epochResume (give (indexed (.broken .aborted) (some 1)) 8 []) = some .done := by
  refine ⟨?_, ?_, ?_, ?_⟩ <;> decide +kernel

def ringBytes (base size threshold tFlush urgent : Nat) : List Byte :=
  leBytes 4 size ++ leBytes 4 threshold ++ leBytes 8 base ++ leBytes 4 tFlush ++ leBytes 2 urgent

theorem witness_NoticeSetIsJudgedAndApplied :
    resultOf .noticeSet (give rig 9 (ringBytes 0x600000 16 0 0 0)) = some .badArgument ∧
    resultOf .noticeSet (give rig 9 (ringBytes 0x600000 16 1 0 1)) = some .badArgument ∧
    resultOf .noticeSet (give (writingNotice 1 0 true) 9 (ringBytes 0x600000 16 1 0 0)) = some .busy ∧
    resultOf .noticeSet (give rig 9 (ringBytes 0x400000 16 1 0 0)) = some .overlap ∧
    resultOf .noticeSet (give rig 9 (ringBytes 0x600000 65536 255 65535 0x1FFE)) = some .done := by
  refine ⟨?_, ?_, ?_, ?_, ?_⟩ <;> decide +kernel

/-- Below the acknowledged position, above the write position, and both ends of the accepted range. -/
theorem witness_NoticeAckIsJudgedAndApplied :
    let s : State := { rig with notice.writePos := 5, notice.ackPos := 2 }
    resultOf .noticeAck (give s 10 (leBytes 4 1)) = some .badArgument ∧
    resultOf .noticeAck (give s 10 (leBytes 4 6)) = some .badArgument ∧
    resultOf .noticeAck (give s 10 (leBytes 4 2)) = some .done ∧
    resultOf .noticeAck (give { s with notice.buffer := [noticeA] } 10 (leBytes 4 5)) = some .done := by
  refine ⟨?_, ?_, ?_, ?_⟩ <;> decide +kernel

def timingBytes (tHold tQuiet lwm : Nat) : List Byte := leBytes 4 tHold ++ leBytes 4 tQuiet ++ leBytes 4 lwm

/-- Both ends of the ranges, and a lowered tHOLD that a lone fenced entry and a lone exhausting entry have reached. -/
theorem witness_TimingSetIsJudgedAndApplied :
    resultOf (.timingSet true) (give rig 11 (timingBytes 0 0 0)) = some .badArgument ∧
    resultOf (.timingSet true) (give rig 11 (timingBytes 65536 0 0)) = some .badArgument ∧
    resultOf (.timingSet true) (give rig 11 (timingBytes 1 65536 0)) = some .badArgument ∧
    resultOf (.timingSet true) (give rig 11 (timingBytes 1 0 257)) = some .badArgument ∧
    resultOf (.timingSet true) (give rig 11 (timingBytes 65535 65535 256)) = some .done ∧
    ∀ cause ∈ [HoldCause.fence, .journalFull],
      let s := holding rig (heldA cause)
      let q := queued 11 (timingBytes 1999 0 0)
      fieldAt q.args 8 4 < s.hold.tHold ∧ fieldAt q.args 16 4 = s.journal.lwm ∧ s.hold.entries = [heldA cause] ∧
      fieldAt q.args 8 4 ≤ (s.mgmt.time - (heldA cause).arrival).toNat ∧ (heldA cause).request.id ∈ s.ulink.outstanding ∧
      (heldA cause).exhausted = false ∧ s.epoch.engine = .capturing ∧ ∀ i : Fin 8, s.capture.slots[i] = none := by
  refine ⟨?_, ?_, ?_, ?_, ?_, ?_⟩ <;> decide +kernel

theorem witness_SnapshotAndUnknownOpcodeAreAnswered :
    resultOf .statusSnapshot (give rig 12 []) = some .done ∧ resultOf .badOpcode (give rig 0 []) = some .badOpcode ∧
    resultOf .badOpcode (give rig 13 []) = some .badOpcode := by
  refine ⟨?_, ?_, ?_⟩ <;> decide +kernel

/-! ### Witnesses: the management port and the invariants -/

theorem witness_ControlWriteMovesTheDevice :
    ∀ d ∈ [DeviceState.offline, .listening, .running],
      let s : State := { rig with mgmt.device := d }
      s.resetAsserted = false ∧ s.status.asked = false ∧ s.mgmt.device = d := by decide +kernel

theorem witness_ManagementWritesReachTheirRegisters :
    rig.atRest ∧ State.reset.atRest ∧ State.reset.mgmt.device = .offline ∧ rig.mgmt.device ≠ .offline ∧
    9 ≤ (9#4).toNat ∧ (List.replicate 39 true).length < 40 ∧ ∀ k < 4, (15#4).getLsbD k = (List.replicate 39 true).getD (7 - k) false := by
  refine ⟨⟨rfl, rfl⟩, ⟨rfl, rfl⟩, ?_, ?_, ?_, ?_, ?_⟩ <;> decide

/-- A held request and an unforwarded trigger beside a forwarded request; and triggers handed over, present and absent. -/
theorem witness_SoftResetKeepsTheLinks :
    (let s := usedFor (holding (withSlot rig slotA) (heldA .order)) (.forwarded id0 .read false false)
     s.atRest ∧ id0 ∈ s.ulink.outstanding ∧ heldA .order ∈ s.hold.entries) ∧
    (∀ trigger ∈ [some (wr 0x10000 1), none],
      let s := usedFor (withSlot rig { forwarding with trigger := trigger }) (.trigger 7)
      s.dlink.originOf id1 = some (.trigger 7) ∧ (s.capture.slots[(7 : Fin 8)].bind (fun c => c.trigger)) = trigger ∧
      (softReset s true).ulink.returned = []) := by
  refine ⟨⟨⟨rfl, rfl⟩, ?_, ?_⟩, ?_⟩ <;> decide +kernel

/-- The bits of a whole frame, with the bits that are ignored set. -/
def frameOf (write : Bool) (reg : BitVec 4) (data : BitVec 32) : List Bool :=
  [write, true, true, true] ++ (List.range 4).map (fun k => reg.getLsbD (3 - k)) ++ (List.range 32).map (fun k => data.getLsbD (31 - k))

/-- The state after these bits of a frame. -/
def shifted (s : State) (bits : List Bool) : State := bits.foldl (fun u b => takeSerial u (.bit b)) (takeSerial s .select)

/-- Frames of seven, eight, forty and forty-one bits, and a command in front of the pins. -/
theorem witness_ManagementFramesAreShifted :
    rig.resetAsserted = false ∧ rig.mgmt.frame = none ∧
    (let s : State := { rig with serial := [.select] }; s.pending = [] ∧ s.serial = .select :: []) ∧
    (∀ write : Bool, ∀ n ∈ [7, 8, 40, 41],
      let bits := (frameOf write 6 0xFFFFFFFF ++ [true]).take n
      bits.length = n ∧ bits.head? = some write) ∧
    (let bits := frameOf true 2 0x12345678
     (∀ k < 4, (2#4).getLsbD k = bits.getD (7 - k) false) ∧ ∀ k < 32, (0x12345678#32).getLsbD k = bits.getD (39 - k) false) := by
  refine ⟨rfl, rfl, ⟨rfl, rfl⟩, ?_, ?_⟩ <;> decide +kernel

/-- R180, R198: a read of DEVSTATE returns 0x00000102 most significant bit first, and 0 for a bit after the fortieth. -/
theorem test_readFrame :
    (shifted rig (frameOf false 6 0xFFFFFFFF ++ [true])).mgmt.dout =
      List.replicate 23 false ++ [true, false, false, false, false, false, false, true, false] ++ [false] := by decide +kernel

/-- R180, R198: the fortieth bit of a write calls for its command, which the next step takes. -/
theorem test_writeFrame :
    (shifted State.reset (frameOf true 2 0x12345FFF)).pending = [.cwBaseWrite .lo 0x12345FFF] ∧
    (shifted State.reset ((frameOf true 2 0x12345FFF).take 39)).pending = [] ∧
    (step (shifted State.reset (frameOf true 2 0x12345FFF)) =
      .next (writeBase (writeFrame { shifted State.reset (frameOf true 2 0x12345FFF) with pending := [] }) .lo 0x12345FFF)) ∧
    (shifted rig (frameOf true 1 0xFFFFFFFE)).pending = [.softReset false] ∧
    (shifted rig (frameOf true 7 0)).pending = [.mgmtWriteRefused 7 0] := by
  refine ⟨?_, ?_, rfl, ?_, ?_⟩ <;> decide +kernel

/-! ### Formats -/

/-- R196: notices byte by byte. -/
theorem test_noticeBytes :
    Notice.bytes ⟨.commandDropped .queueFull 5 59 (some (0x1234, 6)), 0x01020304, 0x05060708, 0x090A0B0C⟩ 1 =
      [2, 3, 4, 3, 2, 1, 8, 7, 6, 5, 0x0C, 0x0B, 0x0A, 9, 0x34, 0x12, 6, 2, 5, 59] ++ zeroBytes 12 ∧
    Notice.bytes ⟨.holdExpired .fence .write id1 0x123456789ABC 3, 1, 2, 3⟩ 0 =
      [9, 0, 1, 0, 0, 0, 2, 0, 0, 0, 3, 0, 0, 0, 4, 1, 63, 255, 3, 0, 0xBC, 0x9A, 0x78, 0x56, 0x34, 0x12] ++ zeroBytes 6 ∧
    Notice.bytes ⟨.journalLow 0x010203 0x040506 7 8 9, 1, 2, 3⟩ 0 =
      [10, 0, 1, 0, 0, 0, 2, 0, 0, 0, 3, 0, 0, 0, 3, 2, 1, 6, 5, 4, 7, 0, 0, 0, 8, 0, 0, 0, 9, 0, 0, 0] ∧
    Notice.bytes ⟨.captureFault 0x100 7 8 none, 1, 2, 3⟩ 0 =
      [8, 0, 1, 0, 0, 0, 2, 0, 0, 0, 3, 0, 0, 0, 0, 0, 7, 0, 0, 0, 8, 0, 0, 0, 0, 0, 1, 0, 0, 0, 0, 0] := by decide +kernel

/-- R197: a status block of the small part after one command, and of a part that has taken none; and a lap below 2. -/
theorem witness_NoticesAndStatusBlocksHoldTheirFields :
    (let s : State := { rig with cmd := ⟨[], 1, some ⟨0x1234, 6, .busy⟩⟩ }
     let block := statusBlock s 9
     (block[0].toList.take 12 = [9, 0, 0, 0, 2, 1, 0, 0, 1, 0, 0, 0]) ∧ fieldAt block[1] 12 4 = 256 ∧
     fieldAt block[2] 16 4 = 0x05061234 ∧ fieldAt block[3] 60 4 = 9) ∧
    rig.cmd.last = none ∧ fieldAt (statusBlock rig 9)[2] 16 4 = 0 ∧ 1 < 2 := by decide +kernel

/-- A step from the small part, which meets every invariant. -/
theorem witness_stepInvariants :
    step rig = .next (tick rig) ∧ WithinCapacity rig ∧ CaptureSound rig ∧ SettingsInRange rig ∧ EngineSound (indexed .capturing none) ∧
    step (indexed .capturing none) = .next (tick (indexed .capturing none)) ∧ AreasDisjoint rig ∧ NoticeSound rig := by
  refine ⟨rfl, ?_, ⟨by decide, by decide, ?_⟩, ⟨by decide, by decide, by decide, by decide, by decide, by decide, ?_, ?_⟩,
    engineSound_indexed _ _ (by decide) rfl (by rintro t ⟨⟩), rfl, rig_areas, rig_notice⟩
  · unfold WithinCapacity; decide +kernel
  · intro i j c d hc
    have h : ∀ k : Fin 8, rig.capture.slots[k] = none := by decide +kernel
    rw [h i] at hc; cases hc
  · rintro n ⟨⟩; decide
  · rintro n ⟨⟩

end Sys2Proof.Machine.Test
end

section
/-! PROOF. The answer with an error to a VOID write (R60): a journal write fault (R3, R4), after which the slot is free (R55). -/

namespace Sys2Proof.Machine

/-! ### Journal write faults -/

/-- A journal write fault changes the engine, the target, the hold queue's passes, the notice unit and the request for a status
block, and these only in CAPTURING and DRAINING (R3, R4). In particular it leaves the journal pointers and the slots alone. -/
theorem journalWriteFault_frame (s : State) :
    let breaks := s.epoch.engine = .capturing ∨ s.epoch.engine = .draining
    journalWriteFault s =
      { s with epoch.engine := (if breaks then .broken .journalFault else s.epoch.engine),
               epoch.target := (if breaks then none else s.epoch.target),
               hold.passes := s.hold.passes + (if breaks then 1 else 0),
               status.asked := (if breaks then true else s.status.asked),
               notice := (journalWriteFault s).notice, dlink.report := (journalWriteFault s).dlink.report } := by
  intro breaks
  rw [journalWriteFault_eq]
  by_cases hb : breaks
  · simp only [if_pos hb, breaks]
    exact enterBroken_frame s .journalFault
  · simp only [if_neg hb, breaks, Nat.add_zero]

/-- A journal write fault posts EPOCH_BROKEN if it breaks the engine, and nothing otherwise (R4). -/
theorem journalWriteFault_handed (s : State) :
    let breaks := s.epoch.engine = .capturing ∨ s.epoch.engine = .draining
    Handed s (journalWriteFault s)
      (if breaks then [(.epochBroken .journalFault s.epoch.current, s.epoch.current)] else []) := by
  intro breaks
  rw [journalWriteFault_eq]
  by_cases hb : breaks
  · simp only [if_pos hb, breaks]
    exact enterBroken_handed s .journalFault
  · simp only [if_neg hb, breaks]
    exact Handed.of_eq rfl rfl

/-- No journal write fault leaves a drain under way (R107). -/
theorem journalWriteFault_engine_ne_draining (s : State) : (journalWriteFault s).epoch.engine ≠ .draining := by
  rw [journalWriteFault_frame]
  by_cases hb : s.epoch.engine = .capturing ∨ s.epoch.engine = .draining
  · simp [hb]
  · simpa only [if_neg hb] using fun h => hb (.inr h)

/-! ### VOID writes -/

/-- The answer with an error to a slot's VOID write: a journal write fault, and the slot becomes free without ending a drain. -/
theorem takeVoidWrite_error {s : State} {i : Fin 8} {c : CaptureSlot} (hc : s.capture.slots[i] = some c)
    (hp : c.phase = .writingRecord) (hk : c.kind = .void) :
    takeVoidWrite s i .error =
      { setSlot (journalWriteFault s) i none with hold.passes := (journalWriteFault s).hold.passes + 1 } := by
  unfold takeVoidWrite
  rw [slotIn_some_iff.2 ⟨hc, hp, hk⟩]
  exact freeSlot_of_ne i (journalWriteFault_engine_ne_draining s)

/-- The slot whose VOID write failed is free, and no other slot changes. -/
theorem takeVoidWrite_error_slots {s : State} {i : Fin 8} {c : CaptureSlot} (hc : s.capture.slots[i] = some c)
    (hp : c.phase = .writingRecord) (hk : c.kind = .void) :
    (takeVoidWrite s i .error).capture.slots[i] = none ∧
    ∀ j : Fin 8, j ≠ i → (takeVoidWrite s i .error).capture.slots[j] = s.capture.slots[j] := by
  have hs : (takeVoidWrite s i .error).capture = (setSlot s i none).capture := by
    rw [takeVoidWrite_error hc hp hk, journalWriteFault_frame]; rfl
  rw [hs]
  exact ⟨setSlot_self s i none, fun j hj => setSlot_other s none hj⟩

/-- Settles O21: the action is a journal write fault followed by the freeing of the slot, and `settle` turns the request for a
status block that the fault makes into one more request. -/
theorem voidWriteFaultBreaksTheEpoch : Obligations.VoidWriteFaultBreaksTheEpoch := by
  intro s id i c hrest ho hc hp hk breaks
  obtain ⟨hlive, hasked⟩ := hrest
  have hexec := exec_live (c := .voidWriteAnswer id .error) (by simp) (by simp) hlive
  rw [effectOf_voidWriteAnswer .error ho] at hexec
  obtain ⟨hfree, hother⟩ := takeVoidWrite_error_slots (s := freeIdent s id) hc hp hk
  have heffect := takeVoidWrite_error (s := freeIdent s id) hc hp hk
  have hhanded := journalWriteFault_handed (freeIdent s id)
  refine ⟨_, hexec, ?_, ?_, ?_, ?_⟩
  · rw [settle_frame, settle_status, heffect, journalWriteFault_frame]
    by_cases hb : breaks
    · simp [hb, breaks, freeIdent, Nat.add_assoc, hasked]
    · simp [hb, breaks, freeIdent, hasked]
  · rw [settle_frame]; exact hfree
  · rw [settle_frame]; exact hother
  · rw [settle_frame, heffect]
    exact hhanded.congr rfl rfl rfl rfl rfl

end Sys2Proof.Machine
end

section
/-! PROOF. What the three resets leave of the hold queue (R101, with R99, R100 and R190): no entry, so no expiry to take. A soft reset
answers with RETRY on the way, and no identity leaves the outstanding set unanswered. -/

namespace Sys2Proof.Machine

/-! ### An empty hold queue -/

/-- The end of an action leaves the part at rest. -/
theorem settle_atRest {s : State} (h : s.resetAsserted = false) : (settle s).atRest := by
  rw [settle_frame, settle_status]
  exact ⟨h, rfl⟩

/-- An empty hold queue has no expiry to take: none that was already put on the queue of commands has an effect (R92). -/
theorem exec_holdExpiry_of_empty {s : State} (hs : s.atRest) (he : s.hold.entries = []) (id : Ident) :
    exec (.holdExpiry id) s = .next s := by
  obtain ⟨hlive, hasked⟩ := hs
  have heffect : effectOf (.holdExpiry id) s = s := by simp [effectOf, takeHoldExpiry, he]
  have hexec := exec_quiet (c := .holdExpiry id) (by simp) (by simp) hlive (by rw [heffect]; exact hasked)
  rwa [heffect] at hexec

/-! ### Requests in OFFLINE -/

/-- In OFFLINE every request is forwarded (R34). -/
theorem classify_offline {s : State} (ho : s.mgmt.device = .offline) (r : Request) : classify s r = .forward := by
  simp [classify, ho]

/-- In OFFLINE a request reaches the links alone: it is refused at the port or forwarded. -/
theorem takeRequest_offline_frame {s : State} (ho : s.mgmt.device = .offline) (r : Request) :
    takeRequest s r = { s with ulink := (takeRequest s r).ulink, dlink := (takeRequest s r).dlink } := by
  by_cases hf : formOk r = true
  · by_cases hd : r.id ∈ s.ulink.outstanding
    · simp [takeRequest, hf, hd, refuseAtPort]
    · rw [takeRequest_fresh hf hd, classify_offline ho]
      rfl
  · simp [takeRequest, hf, refuseAtPort]

/-- In OFFLINE neither the capture unit nor the hold queue takes a request (R101). -/
theorem exec_upstreamRequest_offline {s : State} (hs : s.atRest) (ho : s.mgmt.device = .offline) (r : Request) :
    ∃ t, exec (.upstreamRequest r) s = .next t ∧ t.capture = s.capture ∧ t.hold = s.hold := by
  obtain ⟨hlive, hasked⟩ := hs
  have hframe : effectOf (.upstreamRequest r) s = _ := takeRequest_offline_frame ho r
  refine ⟨_, exec_quiet (c := .upstreamRequest r) (by simp) (by simp) hlive ?_, ?_, ?_⟩
  · rw [hframe]; exact hasked
  · rw [hframe]
  · rw [hframe]

/-! ### RETRY answers (R63, R99) -/

/-- From `u` to `v` the U-link port returned these answers, each RETRY, and the identities that left the outstanding set are
answered. -/
structure Retried (u v : ULink) (answers : List Response) : Prop where
  returned : v.returned = u.returned ++ answers
  retry : ∀ a ∈ answers, a.status = .retry
  still : ∀ id ∈ v.outstanding, id ∈ u.outstanding
  answered : ∀ id ∈ u.outstanding, id ∉ v.outstanding → ∃ a ∈ answers, a.id = id

theorem Retried.refl (u : ULink) : Retried u u [] :=
  ⟨by simp, by simp, fun _ h => h, fun _ h hn => absurd h hn⟩

theorem Retried.trans {u v w : ULink} {as bs : List Response} (h : Retried u v as) (k : Retried v w bs) :
    Retried u w (as ++ bs) where
  returned := by rw [k.returned, h.returned, List.append_assoc]
  retry a ha := (List.mem_append.1 ha).elim (h.retry a) (k.retry a)
  still id hid := h.still id (k.still id hid)
  answered id hu hw := by
    by_cases hv : id ∈ v.outstanding
    · obtain ⟨a, ha, hid⟩ := k.answered id hv hw
      exact ⟨a, List.mem_append_right as ha, hid⟩
    · obtain ⟨a, ha, hid⟩ := h.answered id hu hv
      exact ⟨a, List.mem_append_left bs ha, hid⟩

/-- A run of operations each of which returns RETRY answers alone returns RETRY answers alone. -/
theorem Retried.foldl {α : Type} {f : State → α → State} (hf : ∀ s a, ∃ answers, Retried s.ulink (f s a).ulink answers)
    (l : List α) (s : State) : ∃ answers, Retried s.ulink (l.foldl f s).ulink answers := by
  induction l generalizing s with
  | nil => exact ⟨[], .refl _⟩
  | cons a l ih =>
    obtain ⟨as, has⟩ := hf s a
    obtain ⟨bs, hbs⟩ := ih (f s a)
    exact ⟨as ++ bs, has.trans hbs⟩

/-- After a response its identity is not outstanding, and every other one is as before (R130). -/
theorem mem_outstanding_respond {s : State} {k : ReqKind} {id : Ident} {st : Status} {d : List Byte} {i : Ident} :
    i ∈ (respond s k id st d).ulink.outstanding ↔ i ∈ s.ulink.outstanding ∧ i ≠ id := by
  by_cases h : id ∈ s.ulink.outstanding
  · simp [respond_of_mem h]
  · rw [respond_of_not_mem h]
    exact ⟨fun hi => ⟨hi, fun e => h (e ▸ hi)⟩, And.left⟩

theorem respond_retried (s : State) (k : ReqKind) (id : Ident) (d : List Byte) :
    ∃ answers, Retried s.ulink (respond s k id .retry d).ulink answers := by
  by_cases h : id ∈ s.ulink.outstanding
  · refine ⟨[⟨k, id, .retry, d⟩], by rw [respond_of_mem h], by simp, fun i hi => (mem_outstanding_respond.1 hi).1, ?_⟩
    intro i hi hgone
    have hid : i = id := by_contra fun hne => hgone (mem_outstanding_respond.2 ⟨hi, hne⟩)
    simp [hid]
  · rw [respond_of_not_mem h]
    exact ⟨[], .refl _⟩

/-- What a soft reset does with a slot: its trigger is answered RETRY, or nothing happens (R63). -/
theorem retryTrigger_cases (s : State) (i : Fin 8) :
    retryTrigger s i = s ∨ ∃ id, retryTrigger s i = respond s .write id .retry [] := by
  unfold retryTrigger
  split
  · exact .inl rfl
  · split
    · exact .inr ⟨_, rfl⟩
    · exact .inr ⟨_, rfl⟩
    · exact .inl rfl
    · exact .inl rfl

theorem retryTrigger_retried (s : State) (i : Fin 8) : ∃ answers, Retried s.ulink (retryTrigger s i).ulink answers := by
  obtain h | ⟨id, h⟩ := retryTrigger_cases s i
  · rw [h]; exact ⟨[], .refl _⟩
  · rw [h]; exact respond_retried s _ _ _

theorem retryEntry_retried (s : State) (e : HeldEntry) : ∃ answers, Retried s.ulink (retryEntry s e).ulink answers :=
  respond_retried s _ _ _

/-- Once the held entries have been answered, none of them has an outstanding identity (R99). -/
theorem not_outstanding_of_foldl_retryEntry {entries : List HeldEntry} {e : HeldEntry} (he : e ∈ entries) (s : State) :
    e.request.id ∉ (entries.foldl retryEntry s).ulink.outstanding := by
  induction entries generalizing s with
  | nil => cases he
  | cons x rest ih =>
    cases he with
    | head =>
      obtain ⟨_, hrest⟩ := Retried.foldl retryEntry_retried rest (retryEntry s e)
      exact fun h => (mem_outstanding_respond.1 (hrest.still _ h)).2 rfl
    | tail _ he => exact ih he (retryEntry s x)

/-! ### The RETRY answers of a soft reset -/

/-- The state of a soft reset once every trigger and every held entry is answered, before the blocks return to their reset values
(R191). -/
def softResetAnswered (s : State) (enable : Bool) : State :=
  s.hold.entries.foldl retryEntry (allSlots.foldl retryTrigger { s with mgmt.cwEnable := enable })

theorem softReset_ulink (s : State) (enable : Bool) : (softReset s enable).ulink = (softResetAnswered s enable).ulink := by
  cases enable <;> rfl

theorem softReset_hold (s : State) (enable : Bool) : (softReset s enable).hold = Hold.reset := by
  cases enable <;> rfl

/-- A soft reset returns RETRY answers alone (R63, R99). -/
theorem softReset_retried (s : State) (enable : Bool) : ∃ answers, Retried s.ulink (softReset s enable).ulink answers := by
  rw [softReset_ulink]
  obtain ⟨as, has⟩ := Retried.foldl retryTrigger_retried allSlots { s with mgmt.cwEnable := enable }
  obtain ⟨bs, hbs⟩ := Retried.foldl retryEntry_retried s.hold.entries (allSlots.foldl retryTrigger { s with mgmt.cwEnable := enable })
  exact ⟨as ++ bs, has.trans hbs⟩

/-- No held entry is outstanding after a soft reset (R99). -/
theorem softReset_not_outstanding {s : State} {e : HeldEntry} (he : e ∈ s.hold.entries) (enable : Bool) :
    e.request.id ∉ (softReset s enable).ulink.outstanding := by
  rw [softReset_ulink]
  exact not_outstanding_of_foldl_retryEntry he _

/-- A run of operations that leave RESET alone leaves it alone. -/
theorem foldl_resetAsserted {α : Type} {f : State → α → State} (hf : ∀ s a, (f s a).resetAsserted = s.resetAsserted)
    (l : List α) (s : State) : (l.foldl f s).resetAsserted = s.resetAsserted := by
  induction l generalizing s with
  | nil => rfl
  | cons a l ih => exact (ih (f s a)).trans (hf s a)

theorem respond_resetAsserted (s : State) (k : ReqKind) (id : Ident) (st : Status) (d : List Byte) :
    (respond s k id st d).resetAsserted = s.resetAsserted := by rw [respond_frame]

theorem softReset_resetAsserted (s : State) (enable : Bool) : (softReset s enable).resetAsserted = s.resetAsserted := by
  have htrigger (s : State) (i : Fin 8) : (retryTrigger s i).resetAsserted = s.resetAsserted := by
    obtain h | ⟨id, h⟩ := retryTrigger_cases s i
    · rw [h]
    · rw [h, respond_resetAsserted]
  have hentry (s : State) (e : HeldEntry) : (retryEntry s e).resetAsserted = s.resetAsserted :=
    respond_resetAsserted s _ _ _ _
  calc (softReset s enable).resetAsserted
      = (softResetAnswered s enable).resetAsserted := by cases enable <;> rfl
    _ = (allSlots.foldl retryTrigger { s with mgmt.cwEnable := enable }).resetAsserted := foldl_resetAsserted hentry _ _
    _ = s.resetAsserted := foldl_resetAsserted htrigger allSlots { s with mgmt.cwEnable := enable }

/-! ### The three resets -/

/-- Power-on reset, and the part once RESET is deasserted (R101, R190). -/
theorem powerOnReset_empties_hold (s : State) :
    ∃ t u, exec .powerOnReset s = .next t ∧ exec .resetDeasserted t = .next u ∧
      t.hold.entries = [] ∧ t.ulink.returned = s.ulink.returned ∧ t.hold.tHold = 2000 ∧ t.ulink.outstanding = [] ∧
      t.mgmt.device = .offline ∧ u.mgmt.device = .offline ∧
      (∀ r, ∃ v, exec (.upstreamRequest r) u = .next v ∧ v.capture = u.capture ∧ v.hold = u.hold) ∧
      ∀ id, exec (.holdExpiry id) u = .next u :=
  have hrest : State.atRest { powerOn s with resetAsserted := false } := ⟨rfl, rfl⟩
  ⟨powerOn s, { powerOn s with resetAsserted := false }, rfl, rfl, rfl, rfl, rfl, rfl, rfl, rfl,
    exec_upstreamRequest_offline hrest rfl, exec_holdExpiry_of_empty hrest rfl⟩

/-- A soft reset answers every held entry RETRY (R99). -/
theorem softReset_empties_hold {s : State} (hs : s.atRest) (enable : Bool) :
    ∃ (t : State) (answers : List Response), exec (.softReset enable) s = .next t ∧ t.hold.entries = [] ∧
      t.hold.tHold = 2000 ∧ t.ulink.returned = s.ulink.returned ++ answers ∧
      (∀ e ∈ s.hold.entries, e.request.id ∈ s.ulink.outstanding → ∃ a ∈ answers, a.id = e.request.id ∧ a.status = .retry) ∧
      ∀ id, exec (.holdExpiry id) t = .next t := by
  have hexec := exec_live (c := .softReset enable) (by simp) (by simp) hs.1
  obtain ⟨answers, hreturned, hretry, _, hanswered⟩ := softReset_retried (writeFrame s) enable
  have hhold : (settle (softReset (writeFrame s) enable)).hold = Hold.reset := by
    rw [settle_frame]; exact softReset_hold _ _
  have hrest : (settle (softReset (writeFrame s) enable)).atRest :=
    settle_atRest ((softReset_resetAsserted _ _).trans hs.1)
  refine ⟨_, answers, hexec, congrArg Hold.entries hhold, congrArg Hold.tHold hhold, ?_, fun e he hout => ?_,
    exec_holdExpiry_of_empty hrest (congrArg Hold.entries hhold)⟩
  · rw [settle_frame]; exact hreturned
  · obtain ⟨a, ha, hid⟩ := hanswered e.request.id hout (softReset_not_outstanding (s := writeFrame s) he enable)
    exact ⟨a, ha, hid, hretry a ha⟩

/-- An upstream link reset discards every held entry without a response (R100). -/
theorem upstreamLinkReset_empties_hold {s : State} (hs : s.atRest) :
    ∃ t, exec .upstreamLinkReset s = .next t ∧ t.hold.entries = [] ∧ t.hold.tHold = s.hold.tHold ∧
      t.ulink.returned = s.ulink.returned ∧ ∀ id, exec (.holdExpiry id) t = .next t :=
  ⟨resetUpstream s, exec_quiet (c := .upstreamLinkReset) (by simp) (by simp) hs.1 hs.2, rfl, rfl, rfl,
    exec_holdExpiry_of_empty (s := resetUpstream s) hs rfl⟩

/-- Settles O5: one lemma per column of R101's table. -/
theorem resetsEmptyTheHoldQueue : Obligations.ResetsEmptyTheHoldQueue := fun s =>
  ⟨powerOnReset_empties_hold s, fun hs => ⟨softReset_empties_hold hs, upstreamLinkReset_empties_hold hs⟩⟩

end Sys2Proof.Machine
end

section
/-! PROOF. ROLLBACK_ABORT (R117): in DRAINING it gives the rollback up (R118), in RESTORING it makes the abort pending (R119), and
elsewhere it is refused. Before it, what every command of the command window does: it is judged, changed and answered in one action
(R150, R151), and that action asks for one status block however often it asked (R156). -/

namespace Sys2Proof.Machine

/-! ### A command from the head of the queue -/

/-- The event that names the oldest queued command is one action with that command's rule (R150). -/
theorem exec_command {c : Instr} {s : State} {q : QueuedCommand} {rest : List QueuedCommand} {opcode : Byte} {isIt : Byte → Bool}
    {rule : Rule} (hpower : c ≠ .powerOnReset) (hdeassert : c ≠ .resetDeasserted) (hs : s.atRest) (ho : s.offers q rest opcode)
    (heffect : effectOf c s = takeCommand s isIt rule) (his : isIt opcode = true) :
    exec c s = .next (settle (applyRule rule q { s with cmd.queue := rest })) := by
  obtain ⟨hdevice, hqueue, hopcode⟩ := ho
  rw [exec_live hpower hdeassert hs.1, heffect, takeCommand_eq rule hqueue hdevice (hopcode ▸ his)]

/-- The end of an action that ends in an answer: the record of the command, its notice, and one request for a status block, with
none left to be collected (R151, R156). -/
theorem settle_answer (s : State) (q : QueuedCommand) (r : Result) : settle (answer s q r) =
    { s.answered q s.cmd.queue r with
      status.asked := false, notice := (settle (answer s q r)).notice, dlink.report := (settle (answer s q r)).dlink.report } := by
  have hasked : (answer s q r).status.asked = true := by rw [answer_frame]
  rw [settle_of_asked hasked, answer_frame]
  rfl

/-- An action that changes nothing of the notice unit before its answer hands over its COMMAND_DONE (R151). -/
theorem settle_answer_handed {s u : State} {q : QueuedCommand} {r : Result}
    (hack : ¬ (q.opcode = Opcode.noticeAck.code ∧ r.accepted = true)) (hnotice : s.notice = u.notice)
    (hreport : s.dlink.report = u.dlink.report) (htime : s.mgmt.time = u.mgmt.time) :
    Handed s (settle (answer u q r)) [(.commandDone q.tag q.opcode r, u.epoch.current)] := by
  rw [settle_frame]
  exact (answer_handed hack).congr hnotice hreport htime rfl rfl

/-- A command that its rule does not accept is refused with the rule's result (R151). -/
theorem refused_of_judge {s : State} {q : QueuedCommand} {rest : List QueuedCommand} {rule : Rule} {r : Result} (hs : s.atRest)
    (hjudge : rule.judge { s with cmd.queue := rest } q.args = r) (hr : r.accepted = false) :
    Refused s (settle (applyRule rule q { s with cmd.queue := rest })) q rest r := by
  subst hjudge
  rw [applyRule_refused hr]
  refine ⟨(settle_answer _ q _).trans ?_, settle_answer_handed (by simp [hr]) rfl rfl rfl⟩
  rw [← hs.2]
  rfl

/-- A command that its rule accepts: the change, the answer, and what the change sets in motion (R151). -/
theorem applyRule_of_judge {s u : State} {q : QueuedCommand} {rule : Rule} {r : Result} (hjudge : rule.judge s q.args = r)
    (hr : r.accepted = true) (hchange : rule.change s q.args = u) : applyRule rule q s = rule.after (answer u q r) q.args := by
  subst hjudge hchange
  exact applyRule_accepted hr

theorem Result.accepted_iff {r : Result} : r.accepted = true ↔ r = .done ∨ r = .started := by
  cases r <;> simp [Result.accepted]

/-! ### ROLLBACK_ABORT -/

/-- The table of R117. -/
theorem judgeRollbackAbort_eq (s : State) (l : Line) : judgeRollbackAbort s l =
    if s.mgmt.device ≠ .running then .noJournal
    else if s.epoch.engine = .draining then .done
    else if s.epoch.engine = .restoring then (if s.restore.abortPending then .busy else .started)
    else .state := by
  unfold judgeRollbackAbort
  cases s.epoch.engine <;> simp

/-- DONE answers an abort in DRAINING alone (R117). -/
theorem draining_of_judgeRollbackAbort_done {s : State} {l : Line} (h : judgeRollbackAbort s l = .done) :
    s.epoch.engine = .draining := by
  rw [judgeRollbackAbort_eq] at h
  split_ifs at h
  assumption

/-- STARTED answers an abort in RESTORING alone (R117). -/
theorem restoring_of_judgeRollbackAbort_started {s : State} {l : Line} (h : judgeRollbackAbort s l = .started) :
    s.epoch.engine = .restoring := by
  rw [judgeRollbackAbort_eq] at h
  split_ifs at h
  assumption

/-- An abort in DRAINING drops the target and goes back to CAPTURING (R118). -/
theorem changeRollbackAbort_of_draining {s : State} (h : s.epoch.engine = .draining) (l : Line) :
    changeRollbackAbort s l = setEngine { s with epoch.target := none } .capturing := by simp [changeRollbackAbort, h]

/-- An abort in RESTORING becomes pending (R119). -/
theorem changeRollbackAbort_of_restoring {s : State} (h : s.epoch.engine = .restoring) (l : Line) :
    changeRollbackAbort s l = { s with restore.abortPending := true } := by simp [changeRollbackAbort, h]

/-- What the command unit does with ROLLBACK_ABORT (R117). -/
def rollbackAbortRule : Rule := ⟨judgeRollbackAbort, changeRollbackAbort, nothingAfter⟩

/-- Taking ROLLBACK_ABORT is one action with its rule (R117, R150). -/
theorem exec_rollbackAbort {s : State} {q : QueuedCommand} {rest : List QueuedCommand} (hs : s.atRest) (ho : s.offers q rest 7) :
    exec .rollbackAbort s = .next (settle (applyRule rollbackAbortRule q { s with cmd.queue := rest })) :=
  exec_command (isIt := fun b => b == Opcode.rollbackAbort.code) (by simp) (by simp) hs ho rfl (by decide)

/-- ROLLBACK_ABORT in DRAINING is R118's change and the answer. -/
theorem applyRule_rollbackAbort_done {s : State} {q : QueuedCommand} (h : judgeRollbackAbort s q.args = .done) :
    applyRule rollbackAbortRule q s = answer (setEngine { s with epoch.target := none } .capturing) q .done :=
  applyRule_of_judge (rule := rollbackAbortRule) h rfl
    (changeRollbackAbort_of_draining (draining_of_judgeRollbackAbort_done h) q.args)

/-- ROLLBACK_ABORT in RESTORING is R119's change and the answer. -/
theorem applyRule_rollbackAbort_started {s : State} {q : QueuedCommand} (h : judgeRollbackAbort s q.args = .started) :
    applyRule rollbackAbortRule q s = answer { s with restore.abortPending := true } q .started :=
  applyRule_of_judge (rule := rollbackAbortRule) h rfl
    (changeRollbackAbort_of_restoring (restoring_of_judgeRollbackAbort_started h) q.args)

/-- Settles O44: the judgement is R117's table; a result that is no acceptance is a refusal, DONE comes in DRAINING with R118's
change, and STARTED in RESTORING with R119's. -/
theorem rollbackAbortIsJudgedAndApplied : Obligations.RollbackAbortIsJudgedAndApplied := by
  intro s q rest hs ho r
  have hjudge : judgeRollbackAbort { s with cmd.queue := rest } q.args = r := judgeRollbackAbort_eq _ _
  have hack : ¬ (q.opcode = Opcode.noticeAck.code ∧ r.accepted = true) := by
    obtain ⟨_, _, hopcode⟩ := ho
    rw [hopcode]
    exact fun h => absurd h.1 (by decide)
  refine ⟨_, exec_rollbackAbort hs ho, ?_⟩
  clear_value r
  by_cases hr : r.accepted = true
  · rcases Result.accepted_iff.1 hr with rfl | rfl
    · rw [applyRule_rollbackAbort_done hjudge]
      refine ⟨by simp, fun _ => (settle_answer _ q _).trans ?_, by simp, settle_answer_handed hack rfl rfl rfl⟩
      rw [← hs.2]
      rfl
    · rw [applyRule_rollbackAbort_started hjudge]
      refine ⟨by simp, by simp, fun _ => (settle_answer _ q _).trans ?_, settle_answer_handed hack rfl rfl rfl⟩
      rw [← hs.2]
      rfl
  · have hrefused := refused_of_judge (q := q) (rule := rollbackAbortRule) hs hjudge (Bool.eq_false_iff.2 hr)
    exact ⟨fun _ _ => hrefused, fun h => absurd (Result.accepted_iff.2 (.inl h)) hr,
      fun h => absurd (Result.accepted_iff.2 (.inr h)) hr, hrefused.2⟩

end Sys2Proof.Machine
end

section
/-! PROOF. STATUS_SNAPSHOT (R154) and an opcode that names no command (R150): neither rule reads the state or the arguments, and
neither changes anything, so the answer is the whole of the action. -/

namespace Sys2Proof.Machine

/-! ### STATUS_SNAPSHOT -/

/-- What the command unit does with STATUS_SNAPSHOT (R154). -/
def statusSnapshotRule : Rule := ⟨fun _ _ => .done, fun s _ => s, nothingAfter⟩

/-- Taking STATUS_SNAPSHOT is one action with its rule (R150, R154). -/
theorem exec_statusSnapshot {s : State} {q : QueuedCommand} {rest : List QueuedCommand} (hs : s.atRest) (ho : s.offers q rest 12) :
    exec .statusSnapshot s = .next (settle (applyRule statusSnapshotRule q { s with cmd.queue := rest })) :=
  exec_command (isIt := fun b => b == Opcode.statusSnapshot.code) (by simp) (by simp) hs ho rfl (by decide)

/-- STATUS_SNAPSHOT is its answer and nothing else, whatever its arguments (R154). -/
theorem applyRule_statusSnapshot (s : State) (q : QueuedCommand) : applyRule statusSnapshotRule q s = answer s q .done :=
  applyRule_of_judge (rule := statusSnapshotRule) rfl rfl rfl

/-- STATUS_SNAPSHOT at the head of the queue is answered DONE, with its record and its COMMAND_DONE (R154). -/
theorem statusSnapshot_answered {s : State} {q : QueuedCommand} {rest : List QueuedCommand} (hs : s.atRest) (ho : s.offers q rest 12) :
    ∃ t, exec .statusSnapshot s = .next t ∧
      t = { s.answered q rest .done with notice := t.notice, dlink.report := t.dlink.report } ∧
      Handed s t [(.commandDone q.tag q.opcode .done, s.epoch.current)] := by
  have hack : ¬ (q.opcode = Opcode.noticeAck.code ∧ Result.done.accepted = true) := by
    obtain ⟨_, _, hopcode⟩ := ho
    rw [hopcode]
    exact fun h => absurd h.1 (by decide)
  refine ⟨_, exec_statusSnapshot hs ho, ?_⟩
  rw [applyRule_statusSnapshot]
  refine ⟨(settle_answer _ q _).trans ?_, settle_answer_handed hack rfl rfl rfl⟩
  rw [← hs.2]
  rfl

/-! ### An opcode that names no command -/

/-- The bytes that are no opcode are 0 and those above 12 (R193). -/
theorem opcodeKnown_eq_false_iff {b : Byte} : opcodeKnown b = false ↔ b = 0 ∨ 12 < b.toNat := by
  have hzero : b = 0 ↔ b.toNat = 0 := BitVec.toNat_eq
  rw [opcodeKnown, decide_eq_false_iff_not, hzero]
  omega

/-- What the command unit does with an opcode that names no command (R150). -/
def badOpcodeRule : Rule := ⟨fun _ _ => .badOpcode, fun s _ => s, nothingAfter⟩

/-- Taking a command whose opcode names none is one action with the rule that refuses it (R150). -/
theorem exec_badOpcode {s : State} {q : QueuedCommand} {rest : List QueuedCommand} (hs : s.atRest) (ho : s.offers q rest q.opcode)
    (hunknown : opcodeKnown q.opcode = false) :
    exec .badOpcode s = .next (settle (applyRule badOpcodeRule q { s with cmd.queue := rest })) :=
  exec_command (isIt := fun b => !opcodeKnown b) (by simp) (by simp) hs ho rfl (by simp [hunknown])

/-- A command whose opcode names none is refused with BAD_OPCODE (R150). -/
theorem badOpcode_refused {s : State} {q : QueuedCommand} {rest : List QueuedCommand} (hs : s.atRest) (ho : s.offers q rest q.opcode)
    (hunknown : opcodeKnown q.opcode = false) : ∃ t, exec .badOpcode s = .next t ∧ Refused s t q rest .badOpcode :=
  ⟨_, exec_badOpcode hs ho hunknown, refused_of_judge (rule := badOpcodeRule) hs rfl rfl⟩

/-- Settles O49: the rule of STATUS_SNAPSHOT accepts every command and changes nothing, so the answer is all there is; an opcode of 0 or
above 12 is unknown to the decoder, and its rule refuses. -/
theorem snapshotAndUnknownOpcodeAreAnswered : Obligations.SnapshotAndUnknownOpcodeAreAnswered :=
  fun _ _ _ hs hdevice hqueue =>
    ⟨fun hopcode => statusSnapshot_answered hs ⟨hdevice, hqueue, hopcode⟩,
      fun hopcode => badOpcode_refused hs ⟨hdevice, hqueue, rfl⟩ (opcodeKnown_eq_false_iff.2 hopcode)⟩

end Sys2Proof.Machine
end

section
/-! PROOF. The invariants kept by the operations the blocks share. -/

namespace Sys2Proof.Machine

/-- From `s` to `t` every invariant is kept, each on its own. -/
structure Keeps (s t : State) : Prop where
  capacity : WithinCapacity s → WithinCapacity t
  capture : CaptureSound s → CaptureSound t
  settings : SettingsInRange s → SettingsInRange t
  engine : EngineSound s → EngineSound t
  areas : AreasDisjoint s → AreasDisjoint t
  notices : NoticeSound s → NoticeSound t

theorem Keeps.refl (s : State) : Keeps s s := ⟨id, id, id, id, id, id⟩

theorem Keeps.trans {s t u : State} (h : Keeps s t) (k : Keeps t u) : Keeps s u :=
  ⟨k.capacity ∘ h.capacity, k.capture ∘ h.capture, k.settings ∘ h.settings, k.engine ∘ h.engine, k.areas ∘ h.areas,
    k.notices ∘ h.notices⟩

/-- A run of operations that keep the invariants keeps them. -/
theorem Keeps.foldl {α : Type} {f : State → α → State} (hf : ∀ s a, Keeps s (f s a)) (l : List α) (s : State) :
    Keeps s (l.foldl f s) := by
  induction l generalizing s with
  | nil => exact .refl s
  | cons a l ih => exact (hf s a).trans (ih (f s a))

/-- The two branches of a decision of the part. -/
theorem Keeps.ite {s t u : State} {p : Prop} [Decidable p] (ht : p → Keeps s t) (hu : ¬ p → Keeps s u) :
    Keeps s (if p then t else u) := by
  by_cases h : p
  · rw [if_pos h]; exact ht h
  · rw [if_neg h]; exact hu h

/-! ### Items that one invariant reads -/

/-- The outstanding set changes, and stays a set (R128). -/
theorem keeps_ulink (s : State) (u : ULink) (h : s.ulink.outstanding.Nodup → u.outstanding.Nodup) :
    Keeps s { s with ulink := u } where
  capacity := fun ⟨hbuffer, hqueue, hentries, hout, hids, hframe⟩ => ⟨hbuffer, hqueue, hentries, h hout, hids, hframe⟩
  capture := id
  settings := id
  engine := id
  areas := id
  notices := id

/-- The D-link changes, and the identities in use stay a set (R132). -/
theorem keeps_dlink (s : State) (d : DLink)
    (h : (s.dlink.inUse.map (fun u => u.id)).Nodup → (d.inUse.map (fun u => u.id)).Nodup) : Keeps s { s with dlink := d } where
  capacity := fun ⟨hbuffer, hqueue, hentries, hout, hids, hframe⟩ => ⟨hbuffer, hqueue, hentries, hout, h hids, hframe⟩
  capture := id
  settings := id
  engine := id
  areas := id
  notices := id

/-- The held entries and the passes change, within the capacity of the hold queue (R85). -/
theorem keeps_hold (s : State) (l : List HeldEntry) (n : Nat) (h : s.hold.entries.length ≤ 32 → l.length ≤ 32) :
    Keeps s { s with hold.entries := l, hold.passes := n } where
  capacity := fun ⟨hbuffer, hqueue, hentries, hout, hids, hframe⟩ => ⟨hbuffer, hqueue, h hentries, hout, hids, hframe⟩
  capture := id
  settings := id
  engine := id
  areas := id
  notices := id

/-- The command queue changes, within its capacity (R148). -/
theorem keeps_queue (s : State) (c : CommandUnit) (h : s.cmd.queue.length ≤ 8 → c.queue.length ≤ 8) :
    Keeps s { s with cmd := c } where
  capacity := fun ⟨hbuffer, hqueue, hentries, hout, hids, hframe⟩ => ⟨hbuffer, h hqueue, hentries, hout, hids, hframe⟩
  capture := id
  settings := id
  engine := id
  areas := id
  notices := id

/-- The capture unit changes, and stays sound (R47, R50). -/
theorem keeps_capture (s : State) (c : Capture) (h : CaptureSound s → CaptureSound { s with capture := c }) :
    Keeps s { s with capture := c } :=
  ⟨id, h, id, id, id, id⟩

/-- Nothing but items that no invariant reads changes: the restore engine, the status writer, the journal pointers, the counts, the
reports outstanding, the passes and the queues of the sender. -/
theorem keeps_unread (s : State) (restore : Restore) (status : StatusWriter) (journal : Journal) (epoch : EpochController)
    (passes : Nat) (pending : List Instr) (serial : List SerialEvent)
    (hj : journal.base = s.journal.base ∧ journal.slots = s.journal.slots ∧ journal.lwm = s.journal.lwm)
    (he : epoch.engine = s.epoch.engine ∧ epoch.current = s.epoch.current ∧ epoch.index = s.epoch.index ∧
      epoch.target = s.epoch.target ∧ epoch.quiet = s.epoch.quiet ∧ epoch.tQuiet = s.epoch.tQuiet) :
    Keeps s { s with restore := restore, status := status, journal := journal, epoch := epoch, hold.passes := passes,
                     pending := pending, serial := serial } := by
  rcases s with ⟨m, w, ⟨engine, current, index, _, _, target, _, quiet, tQuiet, _, _, _⟩, ⟨base, slots, _, _, _, _, lwm, _⟩, _, _, _, _, _,
    _, _, _, _, _, _⟩
  rcases journal with ⟨base', slots', _, _, _, _, lwm', _⟩
  rcases epoch with ⟨engine', current', index', _, _, target', _, quiet', tQuiet', _, _, _⟩
  obtain ⟨hbase, hslots, hlwm⟩ := hj
  obtain ⟨hengine, hcurrent, hindex, htarget, hquiet, htq⟩ := he
  simp only at hbase hslots hlwm hengine hcurrent hindex htarget hquiet htq
  subst hbase hslots hlwm hengine hcurrent hindex htarget hquiet htq
  exact ⟨id, id, id, id, id, id⟩

/-! ### Links -/

theorem keeps_respond (s : State) (k : ReqKind) (id : Ident) (st : Status) (d : List Byte) : Keeps s (respond s k id st d) := by
  by_cases h : id ∈ s.ulink.outstanding
  · rw [respond_of_mem h]
    exact keeps_ulink s _ (List.Nodup.filter _)
  · rw [respond_of_not_mem h]
    exact .refl s

theorem keeps_freeIdent (s : State) (id : Ident) : Keeps s (freeIdent s id) :=
  keeps_dlink s _ fun h => h.sublist (List.filter_sublist.map _)

theorem keeps_readyForward (s : State) (qs : List DRequest) : Keeps s (readyForward s qs) := keeps_dlink s _ id
theorem keeps_readyCapture (s : State) (qs : List DRequest) : Keeps s (readyCapture s qs) := keeps_dlink s _ id
theorem keeps_readyRestore (s : State) (qs : List DRequest) : Keeps s (readyRestore s qs) := keeps_dlink s _ id
theorem keeps_readyReport (s : State) (qs : List DRequest) : Keeps s (readyReport s qs) := keeps_dlink s _ id

/-! ### Notices -/

/-- The test for a ring write begins one only where the ring has room for it (R169), which keeps all of the invariants. -/
theorem keeps_tryRingWrite (s : State) : Keeps s (tryRingWrite s) := by
  unfold tryRingWrite
  split
  · exact .refl s
  · refine Keeps.ite (fun hready => ?_) (fun _ => .refl s)
    have hroom : s.notice.unacked < s.notice.size := by
      simp only [NoticeUnit.ringReady, Bool.and_eq_true, decide_eq_true_eq] at hready
      exact hready.2
    exact ⟨id, id, id, id, id,
      fun ⟨hbuffer, hlost, hsize, hunacked, _, hattn⟩ => ⟨hbuffer, hlost, hsize, hunacked, fun _ _ => hroom, hattn⟩⟩

/-- A notice that the buffer takes, and one that is lost (R165, R166). -/
theorem keeps_post (s : State) (b : NoticeBody) : Keeps s (post s b) := by
  unfold post Config.noticeCapacity
  refine Keeps.ite (fun hroom => ?_) (fun hfull => ?_)
  · refine Keeps.trans ?_ (keeps_tryRingWrite _)
    refine ⟨?_, id, id, id, id, ?_⟩
    · rintro ⟨_, hrest⟩
      exact ⟨by simp; omega, hrest⟩
    · rintro ⟨_, hlost, hrest⟩
      exact ⟨by simp; omega, fun h => absurd (hlost h) (by omega), hrest⟩
  · refine ⟨id, id, id, id, id, ?_⟩
    rintro ⟨hbuffer, _, hrest⟩
    exact ⟨hbuffer, fun _ => by simp; omega, hrest⟩

theorem keeps_askStatus (s : State) : Keeps s (askStatus s) := ⟨id, id, id, id, id, id⟩

theorem keeps_settle (s : State) : Keeps s (settle s) := by
  rw [settle_frame]; exact ⟨id, id, id, id, id, id⟩

theorem keeps_lowWaterTest (s : State) : Keeps s (lowWaterTest s) := by
  unfold lowWaterTest
  refine Keeps.ite (fun _ => ⟨id, id, id, id, id, id⟩) fun _ => Keeps.ite (fun _ => Keeps.ite (fun _ => ?_) fun _ => .refl s)
    fun _ => ⟨id, id, id, id, id, id⟩
  refine Keeps.trans ?_ (keeps_post _ _)
  exact ⟨id, id, id, id, id, id⟩

end Sys2Proof.Machine
end

section
/-! PROOF. The invariants kept by the operations of the epoch controller and the restore engine. -/

namespace Sys2Proof.Machine

/-- The epoch controller changes but for its timer, and stays sound (R2 to R6). -/
theorem keeps_epoch (s : State) (e : EpochController) (hquiet : e.quiet = s.epoch.quiet) (htQuiet : e.tQuiet = s.epoch.tQuiet)
    (h : EngineSound s → EngineSound { s with epoch := e }) : Keeps s { s with epoch := e } where
  capacity := id
  capture := id
  settings := fun ⟨hbase, hlow, hhigh, hq, hlwm, hflush, hrun, hfrun⟩ =>
    ⟨hbase, hlow, hhigh, by simpa only [htQuiet] using hq, hlwm, hflush, by simpa only [htQuiet, hquiet] using hrun, hfrun⟩
  engine := h
  areas := id
  notices := id

/-- A change of the engine state is reported (R2). -/
theorem keeps_setEngine_of {s t : State} (e : Engine) (h : Keeps s { t with epoch.engine := e }) : Keeps s (setEngine t e) :=
  h.trans ⟨id, id, id, id, id, id⟩

/-! ### BROKEN (R4) -/

/-- The engine goes BROKEN: from a fenced state where the cause keeps the target (R4). -/
theorem keeps_breakEngine {s : State} {cause : BrokenCause} (hlive : s.epoch.engine ≠ .absent)
    (hfence : (Engine.broken cause).brokenRetryable = true → s.epoch.engine.fenceUp = true) : Keeps s (breakEngine s cause) := by
  unfold breakEngine
  refine Keeps.trans (Keeps.trans ?_ (keeps_post _ _)) (keeps_askStatus _)
  refine keeps_epoch s _ rfl rfl ?_
  rintro ⟨hrunning, -, hshape, hlength, hnodup, hzero, htarget, hentry⟩
  refine ⟨by simpa [hlive] using hrunning, by simp, fun _ => hshape hlive, hlength, hnodup, hzero, ?_, ?_⟩
  · cases cause <;> simp_all [Engine.brokenRetryable, Engine.fenceUp]
  · intro t ht
    simp only at ht
    split at ht
    · exact hentry t ht
    · cases ht

theorem keeps_enterBroken {s : State} {cause : BrokenCause} (hlive : s.epoch.engine ≠ .absent)
    (hfence : (Engine.broken cause).brokenRetryable = true → s.epoch.engine.fenceUp = true) : Keeps s (enterBroken s cause) :=
  (keeps_breakEngine hlive hfence).trans ⟨id, id, id, id, id, id⟩

theorem keeps_journalWriteFault (s : State) : Keeps s (journalWriteFault s) := by
  rw [journalWriteFault_eq]
  refine Keeps.ite (fun h => keeps_enterBroken ?_ (by simp [Engine.brokenRetryable])) fun _ => .refl s
  rcases h with h | h <;> simp [h]

/-! ### The index -/

/-- In CAPTURING the epoch that stands as the newest of the index is a sound engine's, if its number is fresh (R5, R6). -/
theorem engineSound_capturing {s : State} {older : List IndexEntry} {newest : IndexEntry} (hrunning : s.mgmt.device = .running)
    (hengine : s.epoch.engine = .capturing) (htarget : s.epoch.target = none) (hindex : s.epoch.index = older ++ [newest])
    (hstate : newest.state = .opened) (hcurrent : newest.number = s.epoch.current) (hclosed : ∀ x ∈ older, x.state ≠ .opened)
    (hlength : older.length < 16) (hnodup : (older.map (fun e => e.number)).Nodup)
    (hzero : (0 : EpochNo) ∉ older.map (fun e => e.number)) (hfresh : newest.number ∉ older.map (fun e => e.number))
    (hnonzero : newest.number ≠ 0) : EngineSound s := by
  refine ⟨by simp [hrunning, hengine], by simp [hengine], fun _ => ⟨older, newest, hindex, hstate, hcurrent, hclosed⟩, ?_, ?_, ?_,
    by simp [htarget, hengine, Engine.fenceUp], by simp [htarget]⟩
  · rw [hindex]; simp; omega
  · rw [hindex, List.map_append, List.nodup_append]
    refine ⟨hnodup, by simp, ?_⟩
    intro a ha b hb hab
    simp only [List.map_cons, List.map_nil, List.mem_singleton] at hb
    exact hfresh (hb ▸ hab ▸ ha)
  · rw [hindex, List.map_append, List.mem_append]
    exact not_or.2 ⟨hzero, by simpa using Ne.symm hnonzero⟩

/-- Closing entries of a sound index leaves it sound: the OPEN entry does not close (R12). -/
theorem engineSound_closeEntries {s : State} (fs : List Seq) (h : EngineSound s) :
    EngineSound { s with epoch.index := s.journal.closeEntries fs s.epoch.index } := by
  obtain ⟨hrunning, habsent, hshape, hlength, hnodup, hzero, htarget, hentry⟩ := h
  have hnumbers := closeEntries_numbers s.journal fs s.epoch.index
  refine ⟨hrunning, fun ha => ⟨?_, (habsent ha).2⟩, fun hlive => ?_, ?_, ?_, ?_, htarget, ?_⟩
  · show s.journal.closeEntries fs s.epoch.index = []
    rw [(habsent ha).1]; rfl
  · obtain ⟨older, newest, hindex, hstate, hcurrent, hclosed⟩ := hshape hlive
    have hstays : s.journal.closeEntries fs [newest] = [newest] := by
      simp [Journal.closeEntries, Journal.passed, hstate]
    refine ⟨s.journal.closeEntries fs older, newest, ?_, hstate, hcurrent, ?_⟩
    · show s.journal.closeEntries fs s.epoch.index = _
      rw [hindex, closeEntries_append, hstays]
    · intro x hx
      obtain ⟨e, he, rfl⟩ := List.mem_map.1 hx
      split
      · simp
      · exact hclosed e he
  · show (s.journal.closeEntries fs s.epoch.index).length ≤ 16
    simpa [Journal.closeEntries] using hlength
  · exact hnumbers ▸ hnodup
  · exact hnumbers ▸ hzero
  · exact hnumbers ▸ hentry

/-- The entries older than one of the index are not OPEN, and are fewer than the index (R5, R6). -/
theorem olderThan_closed {s : State} {n : EpochNo} (h : EngineSound s) (hlive : s.epoch.engine ≠ .absent)
    (hn : n ∈ s.epoch.index.map (fun e => e.number)) :
    (∀ x ∈ olderThan s.epoch.index n, x.state ≠ .opened) ∧ (olderThan s.epoch.index n).length < 16 := by
  obtain ⟨-, -, hshape, hlength, -⟩ := h
  obtain ⟨older, newest, hindex, -, -, hclosed⟩ := hshape hlive
  have hprefix : olderThan s.epoch.index n <+: s.epoch.index := List.takeWhile_prefix _
  have hne : olderThan s.epoch.index n ≠ s.epoch.index := by
    intro he
    obtain ⟨x, hx, hxn⟩ := List.mem_map.1 hn
    have := List.mem_takeWhile_imp (he ▸ hx)
    simp [hxn] at this
  have hlt : (olderThan s.epoch.index n).length < s.epoch.index.length :=
    lt_of_le_of_ne hprefix.length_le fun hl => hne (hprefix.eq_of_length hl)
  refine ⟨fun x hx => ?_, by omega⟩
  rw [hindex] at hprefix hne hx
  rcases List.prefix_concat_iff.1 hprefix with he | hp
  · exact absurd he hne
  · exact hclosed x (hp.subset hx)

/-- The numbers of the entries older than another are distinct, and not 0. -/
theorem olderThan_numbers {s : State} (n : EpochNo) (h : EngineSound s) :
    ((olderThan s.epoch.index n).map (fun e => e.number)).Nodup ∧
      (0 : EpochNo) ∉ (olderThan s.epoch.index n).map (fun e => e.number) := by
  obtain ⟨-, -, -, -, hnodup, hzero, -⟩ := h
  have hsub : ((olderThan s.epoch.index n).map (fun e => e.number)).Sublist (s.epoch.index.map (fun e => e.number)) :=
    (List.takeWhile_sublist _).map _
  exact ⟨hnodup.sublist hsub, fun h => hzero (hsub.subset h)⟩

/-! ### Reports and commits -/

theorem keeps_countAllocations (s : State) : Keeps s (countAllocations s) := by
  obtain ⟨a, b, h⟩ := countAllocations_frame s
  rw [h]; exact ⟨id, id, id, id, id, id⟩

theorem keeps_reportClose (s : State) (e : IndexEntry) : Keeps s (reportClose s e) := by
  rw [reportClose_eq]
  split
  · exact (keeps_post _ _).trans (keeps_askStatus _)
  · exact .refl s

theorem keeps_takeAdvance (s : State) (f : Seq) : Keeps s (takeAdvance s f) := by
  refine Keeps.trans ?_ (Keeps.foldl keeps_reportClose _ _)
  refine keeps_epoch s _ rfl rfl fun h => ?_
  have hclosed := engineSound_closeEntries [f] h
  simp only [Journal.closeEntries, List.any_cons, List.any_nil, Bool.or_false] at hclosed
  exact hclosed

theorem keeps_takeAdvances (s : State) : Keeps s (takeAdvances s) := by
  refine Keeps.trans ?_ (Keeps.foldl keeps_takeAdvance _ _)
  exact ⟨id, id, id, id, id, id⟩

/-- An accepted commit: the closed epochs keep their numbers, and the new one's is fresh (R5, R9). -/
theorem keeps_commit {s : State} (origin : MarkOrigin) (hengine : s.epoch.engine = .capturing)
    (hroom : s.epoch.index.length < 16) : Keeps s (commit s origin) := by
  obtain ⟨a, b, hcount⟩ := countAllocations_frame s
  unfold commit
  rw [hcount]
  refine Keeps.trans ?_ (keeps_readyCapture _ _)
  refine ⟨id, fun ⟨_, _, hslots⟩ => ⟨by simp, by simp, hslots⟩, id, ?_, id, id⟩
  rintro ⟨hrunning, -, -, -, hnodup, hzero, htarget, -⟩
  simp only
  have hnumbers : (s.epoch.index.map (closeOpen s.journal.head a origin)).map (fun e => e.number) =
      s.epoch.index.map (fun e => e.number) := by
    rw [List.map_map]
    apply List.map_congr_left
    intro e _
    simp only [Function.comp, closeOpen]
    split <;> rfl
  obtain ⟨hnonzero, hfresh, -⟩ := nextNumber_spec s.epoch.current
    ((s.epoch.index.map (closeOpen s.journal.head a origin)).map (fun e => e.number)) (by simp; omega)
  refine engineSound_capturing (hrunning.2 (by simp [hengine])) hengine ?_ rfl rfl rfl ?_ (by simpa using hroom)
    (by rw [hnumbers]; exact hnodup) (by rw [hnumbers]; exact hzero) hfresh hnonzero
  · simpa [hengine, Engine.fenceUp] using htarget
  · intro x hx
    obtain ⟨e, _, rfl⟩ := List.mem_map.1 hx
    unfold closeOpen
    split
    · simp
    · assumption

/-! ### The end of a drain and of a walk -/

theorem keeps_readRecord (s : State) : Keeps s (readRecord s) :=
  Keeps.trans (t := { s with restore := (readRecord s).restore }) ⟨id, id, id, id, id, id⟩ (keeps_readyRestore _ _)

/-- The completion of a rollback: the entries older than the target stay, and the new epoch's number is fresh (R5, R114). -/
theorem keeps_completeRollback {s : State} (hengine : s.epoch.engine = .restoring) : Keeps s (completeRollback s) := by
  obtain ⟨a, b, hcount⟩ := countAllocations_frame s
  unfold completeRollback
  rw [hcount]
  refine Keeps.trans (Keeps.trans (keeps_setEngine_of _ ?_) (keeps_post _ _)) (keeps_lowWaterTest _)
  refine ⟨id, fun ⟨_, _, hslots⟩ => ⟨by simp, by simp, hslots⟩, id, fun h => ?_, id, id⟩
  have hlive : s.epoch.engine ≠ .absent := by simp [hengine]
  obtain ⟨hrunning, -, -, -, -, -, htarget, hentry⟩ := id h
  rw [hengine, Engine.fenceUp, Option.isSome_iff_exists] at htarget
  obtain ⟨n, hn⟩ := htarget
  have hgetD : s.epoch.target.getD 0 = n := by rw [hn]; rfl
  obtain ⟨hclosed, hlength⟩ := olderThan_closed h hlive (hentry n hn)
  obtain ⟨hnodup, hzero⟩ := olderThan_numbers n h
  obtain ⟨hnonzero, hfresh, -⟩ := nextNumber_spec s.epoch.current
    ((olderThan s.epoch.index n).map (fun e => e.number)) (by simp; omega)
  simp only [hgetD]
  exact engineSound_capturing (hrunning.2 hlive) rfl rfl rfl rfl rfl hclosed hlength hnodup hzero hfresh hnonzero

theorem keeps_startWalk {s : State} (hengine : s.epoch.engine = .restoring) : Keeps s (startWalk s) := by
  unfold startWalk
  refine Keeps.ite (fun _ => ?_) (fun _ => ?_)
  · refine Keeps.trans ?_ (keeps_completeRollback hengine)
    exact ⟨id, id, id, id, id, id⟩
  · refine Keeps.trans ?_ (keeps_readRecord _)
    exact ⟨id, id, id, id, id, id⟩

/-- The engine moves between two fenced states (R2). -/
theorem engineSound_fenced {s : State} (e : Engine) (hs : s.epoch.engine.fenceUp = true) (he : e.fenceUp = true)
    (h : EngineSound s) : EngineSound { s with epoch.engine := e } := by
  obtain ⟨hrunning, habsent, hshape, hlength, hnodup, hzero, htarget, hentry⟩ := h
  have hlive : s.epoch.engine ≠ .absent := fun ha => by simp [ha, Engine.fenceUp] at hs
  have hlive' : e ≠ .absent := fun ha => by simp [ha, Engine.fenceUp] at he
  exact ⟨by simpa [hlive, hlive'] using hrunning, fun ha => absurd ha hlive', fun _ => hshape hlive, hlength, hnodup, hzero,
    by simpa only [he, hs] using htarget, hentry⟩

theorem keeps_drainTest (s : State) : Keeps s (drainTest s) := by
  unfold drainTest
  refine Keeps.ite (fun ⟨hengine, _, _⟩ => ?_) fun _ => .refl s
  refine Keeps.trans ((keeps_takeAdvances s).trans (keeps_setEngine_of .restoring ?_)) (keeps_startWalk (by simp))
  refine keeps_epoch _ _ rfl rfl (engineSound_fenced .restoring ?_ rfl)
  obtain ⟨_, _, _, hframe⟩ := (takeAdvances_spec s).1
  rw [hframe]
  simp [hengine, Engine.fenceUp]

theorem keeps_reportRestore (s : State) (r : RestoreReport) : Keeps s (reportRestore s r) := ⟨id, id, id, id, id, id⟩

theorem keeps_finishRecord (s : State) : Keeps s (finishRecord s) := by
  unfold finishRecord
  refine Keeps.ite (fun _ => ⟨id, id, id, id, id, id⟩) fun _ => Keeps.ite (fun _ => ⟨id, id, id, id, id, id⟩) fun _ => ?_
  refine Keeps.trans ?_ (keeps_readRecord _)
  exact ⟨id, id, id, id, id, id⟩

theorem keeps_judgeRecord (s : State) : Keeps s (judgeRecord s) := by
  unfold judgeRecord
  simp only
  split
  · exact keeps_reportRestore _ _
  · exact Keeps.ite (fun _ => ⟨id, id, id, id, id, id⟩) fun _ => keeps_finishRecord s

end Sys2Proof.Machine
end

section
/-! PROOF. The invariants kept by the operations of the capture unit, the journal unit, the hold queue and the status writer. -/

namespace Sys2Proof.Machine

/-! ### Capture slots and completion -/

/-- The slots change, and each busy one holds the granule it held (R50). -/
theorem keeps_slots (s : State) (v : Vector (Option CaptureSlot) 8)
    (h : ∀ (j : Fin 8) (x : CaptureSlot), v[j] = some x → ∃ y, s.capture.slots[j] = some y ∧ y.granule = x.granule) :
    Keeps s { s with capture.slots := v } := by
  refine keeps_capture s _ fun ⟨hlength, hnodup, hapart⟩ => ⟨hlength, hnodup, fun i j c d hc hd hg => ?_⟩
  obtain ⟨c', hc', hcg⟩ := h i c hc
  obtain ⟨d', hd', hdg⟩ := h j d hd
  exact hapart i j c' d' hc' hd' (by rw [hcg, hdg, hg])

theorem keeps_setSlot_none (s : State) (i : Fin 8) : Keeps s (setSlot s i none) := by
  refine keeps_slots s _ fun j x hx => ?_
  by_cases hj : j = i
  · subst hj
    rw [show (s.capture.slots.set j.val none j.isLt)[j] = none from setSlot_self s j none] at hx
    cases hx
  · exact ⟨x, (setSlot_other s none hj).symm.trans hx, rfl⟩

/-- A busy slot's contents are replaced, for the same granule. -/
theorem keeps_setSlot {s : State} {i : Fin 8} {c d : CaptureSlot} (hc : s.capture.slots[i] = some c)
    (hg : d.granule = c.granule) : Keeps s (setSlot s i (some d)) := by
  refine keeps_slots s _ fun j x hx => ?_
  by_cases hj : j = i
  · subst hj
    rw [show (s.capture.slots.set j.val (some d) j.isLt)[j] = some d from setSlot_self s j (some d)] at hx
    cases hx
    exact ⟨c, hc, hg.symm⟩
  · exact ⟨x, (setSlot_other s (some d) hj).symm.trans hx, rfl⟩

theorem keeps_freeSlot (s : State) (i : Fin 8) : Keeps s (freeSlot s i) := by
  unfold freeSlot
  refine ((keeps_setSlot_none s i).trans ?_).trans (keeps_drainTest _)
  exact ⟨id, id, id, id, id, id⟩

theorem keeps_complete (s : State) (q : Seq) : Keeps s (complete s q) := by
  unfold complete
  refine Keeps.ite (fun _ => ?_) fun _ => ⟨id, id, id, id, id, id⟩
  refine Keeps.trans ?_ (keeps_drainTest _)
  exact ⟨id, id, id, id, id, id⟩

theorem keeps_dropEntry (s : State) (c : CaptureSlot) : Keeps s (dropEntry s c) := by
  unfold dropEntry
  refine Keeps.ite (fun _ => ?_) fun _ => .refl s
  exact keeps_capture s _ fun ⟨hlength, hnodup, hapart⟩ =>
    ⟨(List.length_filter_le _ _).trans hlength, hnodup.filter _, hapart⟩

/-- An allocation puts a granule into the table and into a slot that neither held it (R47, R50, R51). -/
theorem keeps_allocate {s : State} {r : Request} {w : Fin 16} {i : Fin 8}
    (hslot : s.capture.holdsGranule (granuleOf r.addr) = false) (htable : granuleOf r.addr ∉ s.capture.table) :
    Keeps s (allocate s r w i) := by
  unfold allocate
  refine Keeps.trans ?_ (keeps_lowWaterTest _)
  refine ⟨id, fun ⟨hlength, hnodup, hapart⟩ => ⟨?_, ?_, ?_⟩, id, id, id, id⟩
  · by_cases hfull : 2048 ≤ s.capture.table.length <;> simp [newSlot, Config.tableCapacity, hfull] <;> omega
  · by_cases hfull : 2048 ≤ s.capture.table.length <;> simp [newSlot, Config.tableCapacity, hfull, hnodup]
    exact List.Nodup.append hnodup (by simp) (by simpa using htable)
  · have hnew : ∀ (j : Fin 8) (d : CaptureSlot), (setSlot s i (some (newSlot s r w))).capture.slots[j] = some d →
        j = i ∧ d.granule = granuleOf r.addr ∨ s.capture.slots[j] = some d ∧ d.granule ≠ granuleOf r.addr := by
      intro j d hd
      by_cases hj : j = i
      · subst hj
        rw [setSlot_self] at hd
        cases hd
        exact .inl ⟨rfl, rfl⟩
      · rw [setSlot_other s _ hj] at hd
        refine .inr ⟨hd, fun hg => ?_⟩
        rw [(holdsGranule_iff _ _).2 ⟨j, d, hd, hg⟩] at hslot
        cases hslot
    intro j k c d hc hd hg
    rcases hnew j c hc with ⟨hj, hcg⟩ | ⟨hj, hcg⟩ <;> rcases hnew k d hd with ⟨hk, hdg⟩ | ⟨hk, hdg⟩
    · rw [hj, hk]
    · exact absurd (hg.symm.trans hcg) hdg
    · exact absurd (hg.trans hdg) hcg
    · exact hapart j k c d hj hk hg

/-! ### The capture unit's judgement -/

/-- A capture slot is given for a granule that no slot and not the table holds (R42, R51). -/
theorem judgeOpen_allocate {s : State} {r : Request} {older : Bool} {i : Fin 8} (h : judgeOpen s r older = .allocate i) :
    s.capture.holdsGranule (granuleOf r.addr) = false ∧ granuleOf r.addr ∉ s.capture.table := by
  unfold judgeOpen at h
  simp only at h
  split at h
  · cases h
  · rename_i hordered
    simp only [Bool.or_eq_true, not_or, Bool.not_eq_true] at hordered
    refine ⟨hordered.1, fun hmem => ?_⟩
    cases hk : r.kind <;> rw [hk] at h <;> simp [hmem] at h

theorem judgeHeld_allocate {s : State} {r : Request} {older : Bool} {i : Fin 8} (h : judgeHeld s r older = .allocate i) :
    s.capture.holdsGranule (granuleOf r.addr) = false ∧ granuleOf r.addr ∉ s.capture.table := by
  unfold judgeHeld at h
  split at h
  · split at h <;> cases h
  · exact judgeOpen_allocate h

theorem keeps_holdRequest (s : State) (r : Request) (w : Fin 16) (cause : HoldCause) : Keeps s (holdRequest s r w cause) := by
  unfold holdRequest
  refine Keeps.ite (fun hroom => keeps_hold s _ s.hold.passes fun _ => ?_) fun _ => keeps_respond _ _ _ _ _
  simp only [Config.holdCapacity] at hroom
  simp
  omega

theorem keeps_forwardRequest (s : State) (r : Request) (b : Bool) : Keeps s (forwardRequest s r b) := keeps_readyForward _ _

theorem keeps_takeArrival (s : State) (r : Request) (w : Fin 16) : Keeps s (takeArrival s r w) := by
  unfold takeArrival
  split
  · exact keeps_forwardRequest s r true
  · exact keeps_holdRequest s r w _
  · rename_i hjudged
    unfold judgeArrival at hjudged
    split at hjudged
    · cases hjudged
    · obtain ⟨hslot, htable⟩ := judgeOpen_allocate hjudged
      exact keeps_allocate hslot htable

/-! ### Passes -/

theorem allocate_hold (s : State) (r : Request) (w : Fin 16) (i : Fin 8) : (allocate s r w i).hold = s.hold := by
  rw [allocate_frame]

/-- The judging of entries leaves the hold queue to the end of the pass, and keeps no more entries than it judges (R89). -/
theorem judgeEntries_hold (entries : List HeldEntry) (s : State) (kept : List HeldEntry) :
    (judgeEntries s kept entries).1.hold = s.hold ∧
      (judgeEntries s kept entries).2.length ≤ kept.length + entries.length := by
  induction entries generalizing s kept with
  | nil => exact ⟨rfl, by simp [judgeEntries]⟩
  | cons e rest ih =>
    unfold judgeEntries
    split
    · obtain ⟨hhold, hlength⟩ := ih s (kept ++ [e])
      exact ⟨hhold, by simp at hlength ⊢; omega⟩
    · split
      · obtain ⟨hhold, hlength⟩ := ih (forwardRequest s e.request true) kept
        exact ⟨hhold, by simp at hlength ⊢; omega⟩
      · rename_i i _
        obtain ⟨hhold, hlength⟩ := ih (allocate s e.request e.window i) kept
        exact ⟨hhold.trans (allocate_hold _ _ _ _), by simp at hlength ⊢; omega⟩
      · rename_i cause _
        obtain ⟨hhold, hlength⟩ := ih s (kept ++ [{ e with cause := cause }])
        exact ⟨hhold, by simp at hlength ⊢; omega⟩

theorem keeps_judgeEntries (entries : List HeldEntry) (s : State) (kept : List HeldEntry) :
    Keeps s (judgeEntries s kept entries).1 := by
  induction entries generalizing s kept with
  | nil => exact .refl s
  | cons e rest ih =>
    unfold judgeEntries
    split
    · exact ih s _
    · split
      · exact (keeps_forwardRequest s e.request true).trans (ih _ kept)
      · rename_i hjudged
        obtain ⟨hslot, htable⟩ := judgeHeld_allocate hjudged
        exact (keeps_allocate hslot htable).trans (ih _ kept)
      · exact ih s _

theorem keeps_runPass (s : State) : Keeps s (runPass s) := by
  obtain ⟨hhold, hlength⟩ := judgeEntries_hold s.hold.entries s []
  refine (keeps_judgeEntries s.hold.entries s []).trans
    (keeps_hold (judgeEntries s [] s.hold.entries).1 (judgeEntries s [] s.hold.entries).2 _ fun h => ?_)
  rw [hhold] at h
  simp only [List.length_nil, Nat.zero_add] at hlength
  omega

/-! ### Expiries -/

theorem keeps_expireEntry (s : State) (e : HeldEntry) : Keeps s (expireEntry s e) :=
  ((keeps_hold s _ s.hold.passes (List.length_filter_le _ _).trans).trans (keeps_respond _ _ _ _ _)).trans (keeps_post _ _)

theorem keeps_markExhausted (s : State) (e : HeldEntry) : Keeps s (markExhausted s e) :=
  keeps_hold s _ s.hold.passes (by simp)

theorem keeps_expireWithPass (s : State) (e : HeldEntry) : Keeps s (expireWithPass s e) :=
  (keeps_expireEntry s e).trans ⟨id, id, id, id, id, id⟩

theorem keeps_takeExpiry (s : State) (e : HeldEntry) : Keeps s (takeExpiry s e) := by
  unfold takeExpiry
  cases e.cause with
  | journalFull => exact (keeps_markExhausted s e).trans ⟨id, id, id, id, id, id⟩
  | order => exact keeps_expireWithPass s e
  | slotWait => exact keeps_expireWithPass s e
  | fence => exact keeps_expireWithPass s e

theorem keeps_expireOverdue (s : State) : Keeps s (expireOverdue s) := Keeps.foldl keeps_expireWithPass _ s

theorem keeps_expireNow (s : State) (e : HeldEntry) : Keeps s (expireNow s e) := by
  unfold expireNow
  cases e.cause with
  | journalFull =>
    refine Keeps.ite (fun h => ?_) fun _ => keeps_markExhausted s e
    exact (keeps_markExhausted s e).trans
      (keeps_breakEngine (by simp [h]) (by simp [Engine.brokenRetryable]))
  | order => exact keeps_expireEntry s e
  | slotWait => exact keeps_expireEntry s e
  | fence => exact keeps_expireEntry s e

theorem keeps_expireAll (fuel : Nat) (s : State) : Keeps s (expireAll fuel s) := by
  induction fuel generalizing s with
  | zero => exact .refl s
  | succ fuel ih =>
    unfold expireAll
    split
    · exact .refl s
    · exact ((keeps_expireNow s _).trans (keeps_runPass _)).trans (ih _)

/-! ### The status writer -/

theorem keeps_readyStatusLine (s : State) (w : StatusWrite) : Keeps s (readyStatusLine s w) := keeps_readyReport _ _

theorem keeps_beginStatus (s : State) : Keeps s (beginStatus s) := by
  refine Keeps.trans ?_ (keeps_readyStatusLine _ _)
  exact ⟨id, id, id, id, id, id⟩

theorem keeps_endStatus (s : State) : Keeps s (endStatus s) := by
  unfold endStatus
  refine Keeps.ite (fun _ => ?_) fun _ => ⟨id, id, id, id, id, id⟩
  refine Keeps.trans ?_ (keeps_beginStatus _)
  exact ⟨id, id, id, id, id, id⟩

end Sys2Proof.Machine
end

section
/-! PROOF. The invariants kept by the events of each block that are no commands of the command window. -/

namespace Sys2Proof.Machine

/-! ### The U-link port and the classifier -/

theorem keeps_refuseAtPort (s : State) (r : Request) : Keeps s (refuseAtPort s r) := keeps_ulink s _ id

/-- The quiet timer is started at tQUIET, which is not off (R13). -/
theorem keeps_restartQuiet (s : State) : Keeps s (restartQuiet s) := by
  unfold restartQuiet
  refine Keeps.ite (fun _ => .refl s) fun hon => ⟨id, id, ?_, id, id, id⟩
  rintro ⟨hbase, hlow, hhigh, hq, hlwm, hflush, -, hfrun⟩
  refine ⟨hbase, hlow, hhigh, hq, hlwm, hflush, fun n hn => ⟨hon, ?_⟩, hfrun⟩
  cases hn
  exact le_rfl

theorem keeps_offer (s : State) (r : Request) (line : Nat) : Keeps s (offer s r line) := by
  unfold offer
  refine Keeps.ite (fun _ => keeps_post _ _) fun _ => Keeps.ite (fun _ => keeps_post _ _) fun _ =>
    Keeps.ite (fun _ => keeps_post _ _) fun _ => Keeps.ite (fun _ => keeps_post _ _) fun hroom => keeps_queue s _ fun _ => ?_
  simp only [Config.commandCapacity] at hroom
  simp
  omega

theorem keeps_takeJournaled (s : State) (r : Request) (w : Fin 16) : Keeps s (takeJournaled s r w) := by
  unfold takeJournaled
  refine Keeps.trans (Keeps.ite (fun _ => keeps_restartQuiet s) fun _ => .refl s) (keeps_takeArrival _ _ _)

theorem keeps_followPath (s : State) (r : Request) (p : Path) : Keeps s (followPath s r p) := by
  cases p with
  | forward => exact keeps_forwardRequest s r false
  | refuse => exact keeps_respond _ _ _ _ _
  | guardHit w =>
    unfold followPath
    exact Keeps.ite (fun _ => (keeps_respond _ _ _ _ _).trans (keeps_post _ _)) fun _ => keeps_respond _ _ _ _ _
  | journaled w => exact keeps_takeJournaled s r w
  | command line => exact (keeps_forwardRequest s r false).trans (keeps_offer _ _ _)

theorem keeps_takeRequest (s : State) (r : Request) : Keeps s (takeRequest s r) := by
  unfold takeRequest
  refine Keeps.ite (fun _ => keeps_refuseAtPort s r) fun _ => Keeps.ite (fun _ => keeps_refuseAtPort s r) fun hfresh => ?_
  refine Keeps.trans ?_ (keeps_followPath _ _ _)
  exact keeps_ulink s _ fun h => List.Nodup.append h (by simp) (by simpa using hfresh)

/-- An upstream link reset empties the outstanding set and the hold queue, and each slot keeps its granule (R62, R139). -/
theorem keeps_resetUpstream (s : State) : Keeps s (resetUpstream s) := by
  refine ((keeps_ulink s { s.ulink with outstanding := [] } (by simp)).trans
    ((keeps_dlink _ _ ?_).trans (keeps_hold _ [] s.hold.passes (by simp)))).trans (keeps_slots _ _ ?_)
  · intro h
    rw [List.map_map]
    exact h
  · intro j x hx
    have hmap : (mapSlots (fun o => o.map CaptureSlot.loseTrigger) s.capture.slots)[j] =
        s.capture.slots[j].map CaptureSlot.loseTrigger := by simp [mapSlots]
    rw [hmap, Option.map_eq_some_iff] at hx
    obtain ⟨c, hc, rfl⟩ := hx
    exact ⟨c, hc, rfl⟩

/-! ### The arbiter and the answers -/

theorem isFree_iff (d : DLink) (id : Ident) : d.isFree id = true ↔ ∀ u ∈ d.inUse, u.id ≠ id := by simp [DLink.isFree]

/-- The identity picked is free (R132). -/
theorem pick_free {d : DLink} {want id : Ident} (h : d.pick want = some id) : d.isFree id = true := by
  unfold DLink.pick at h
  split at h
  · cases h
    assumption
  · obtain ⟨n, hn, rfl⟩ := Option.map_eq_some_iff.1 h
    simpa using List.find?_some hn

theorem popClass_inUse (d : DLink) (c : TrafficClass) : (d.popClass c).inUse = d.inUse := by cases c <;> rfl

theorem keeps_arbitrate (s : State) (want : Ident) : Keeps s (arbitrate s want) := by
  unfold arbitrate
  split
  · exact .refl s
  · split
    · rename_i hpick
      refine keeps_dlink s _ fun h => ?_
      simp only [DLink.issue, List.map_append, List.map_cons, List.map_nil]
      refine List.Nodup.append h (by simp) ?_
      simpa [isFree_iff] using pick_free hpick
    · exact .refl s

/-- An answer keeps the invariants if what its origin does with it does. -/
theorem keeps_takeAnswer {s : State} {id : Ident} {f : Origin → State → Option State}
    (h : ∀ o t u, f o t = some u → Keeps t u) : Keeps s (takeAnswer s id f) := by
  unfold takeAnswer
  split
  · exact .refl s
  · exact keeps_freeIdent s id
  · cases hf : f _ (freeIdent s id) with
    | none => exact .refl s
    | some u => exact (keeps_freeIdent s id).trans (h _ _ _ hf)

theorem keeps_takeForwardAnswer {st : DStatus} {data : List Byte} {o : Origin} {t u : State}
    (h : takeForwardAnswer st data o t = some u) : Keeps t u := by
  unfold takeForwardAnswer at h
  split at h
  · cases h
    exact Keeps.ite (fun _ => .refl t) fun _ => keeps_respond _ _ _ _ _
  all_goals cases h

theorem keeps_takeTriggerResponse (s : State) (i : Fin 8) (st : DStatus) : Keeps s (takeTriggerResponse s i st) := by
  unfold takeTriggerResponse
  split
  · exact .refl s
  · refine Keeps.trans ?_ (keeps_freeSlot _ i)
    split
    · exact keeps_respond _ _ _ _ _
    · exact .refl s

/-! ### Captures -/

theorem takeRead_granule (c : CaptureSlot) (k : Fin 4) (st : DStatus) (data : Line) : (c.takeRead k st data).granule = c.granule := by
  cases st <;> rfl

theorem dropEntry_slots (s : State) (c : CaptureSlot) : (dropEntry s c).capture.slots = s.capture.slots := by
  unfold dropEntry
  split <;> rfl

theorem respond_capture (s : State) (k : ReqKind) (id : Ident) (st : Status) (d : List Byte) :
    (respond s k id st d).capture = s.capture := by rw [respond_frame]

theorem journalWriteFault_capture (s : State) : (journalWriteFault s).capture = s.capture := by rw [journalWriteFault_frame]

/-- A completion report leaves the slots alone while one is busy: it ends no drain. -/
theorem complete_capture {s : State} {i : Fin 8} {c : CaptureSlot} (hc : s.capture.slots[i] = some c) (q : Seq) :
    (complete s q).capture = s.capture := by
  rw [complete_eq q (.inr (noneBusy_of_busy (j := i) (by simp [hc])))]

theorem keeps_issueOldReads (s : State) (i : Fin 8) : Keeps s (issueOldReads s i) := by
  unfold issueOldReads
  split
  · exact .refl s
  · rename_i c hc
    refine Keeps.ite (fun _ => ?_) fun _ => .refl s
    exact (keeps_setSlot (c := c) (d := { c with readsIssued := true }) hc rfl).trans (keeps_readyCapture _ _)

theorem keeps_beginRecord {s : State} {i : Fin 8} {c d : CaptureSlot} (hc : s.capture.slots[i] = some c)
    (hg : d.granule = c.granule) : Keeps s (beginRecord s i d) :=
  (keeps_setSlot (d := { d with phase := .writingRecord, awaited := 5, errorSeen := false }) hc hg).trans
    (keeps_readyCapture _ _)

theorem keeps_captureReadFault {s : State} {i : Fin 8} {c d : CaptureSlot} (hc : s.capture.slots[i] = some c)
    (hg : d.granule = c.granule) : Keeps s (captureReadFault s i d) := by
  unfold captureReadFault
  refine Keeps.trans ?_ (keeps_post _ _)
  refine Keeps.trans ?_ (keeps_readyCapture _ _)
  cases d.trigger with
  | none =>
    refine (keeps_dropEntry s d).trans (keeps_setSlot (c := c) ?_ hg)
    rw [dropEntry_slots]; exact hc
  | some r =>
    refine ((keeps_respond s .write r.id .captureFailed []).trans (keeps_dropEntry _ d)).trans (keeps_setSlot (c := c) ?_ hg)
    rw [dropEntry_slots, respond_capture]; exact hc

theorem keeps_takeOldRead (s : State) (i : Fin 8) (k : Fin 4) (st : DStatus) (data : Line) :
    Keeps s (takeOldRead s i k st data) := by
  unfold takeOldRead
  split
  · exact .refl s
  · rename_i c hslot
    obtain ⟨hc, -, -⟩ := slotIn_some_iff.1 hslot
    have hg := takeRead_granule c k st data
    exact Keeps.ite (fun _ => keeps_setSlot hc hg) fun _ =>
      Keeps.ite (fun _ => keeps_captureReadFault hc hg) fun _ => keeps_beginRecord hc hg

theorem keeps_forwardTrigger {s : State} {i : Fin 8} {c d : CaptureSlot} (hc : s.capture.slots[i] = some c)
    (hg : d.granule = c.granule) : Keeps s (forwardTrigger s i d) := by
  unfold forwardTrigger
  split
  · exact (keeps_setSlot (d := { d with phase := .forwarding, awaited := 1, errorSeen := false }) hc hg).trans
      (keeps_readyForward _ _)
  · exact keeps_freeSlot s i

theorem keeps_takeRecordWrite (s : State) (i : Fin 8) (st : DStatus) : Keeps s (takeRecordWrite s i st) := by
  unfold takeRecordWrite
  split
  · exact .refl s
  · rename_i c hslot
    obtain ⟨hc, -, -⟩ := slotIn_some_iff.1 hslot
    refine Keeps.ite (fun _ => keeps_setSlot hc rfl) fun _ => Keeps.ite (fun _ => ?_) fun _ => ?_
    · refine ((keeps_journalWriteFault s).trans (keeps_dropEntry _ _)).trans (keeps_forwardTrigger (c := c) ?_ rfl)
      rw [dropEntry_slots, journalWriteFault_capture]; exact hc
    · refine (keeps_complete s c.sequence).trans (keeps_forwardTrigger (c := c) ?_ rfl)
      rw [complete_capture hc]; exact hc

theorem keeps_takeVoidWrite (s : State) (i : Fin 8) (st : DStatus) : Keeps s (takeVoidWrite s i st) := by
  unfold takeVoidWrite
  split
  · exact .refl s
  · cases st with
    | ok => exact (keeps_complete s _).trans (keeps_freeSlot _ i)
    | error => exact (keeps_journalWriteFault s).trans (keeps_freeSlot _ i)

/-! ### The epoch controller -/

theorem keeps_takeAllocReport (s : State) : Keeps s (takeAllocReport s) := by
  unfold takeAllocReport
  split
  · exact .refl s
  · simp only [countAllocation]
    split <;> exact ⟨id, id, id, id, id, id⟩

theorem keeps_takeMarkerWrite (s : State) (q : Seq) (st : DStatus) : Keeps s (takeMarkerWrite s q st) := by
  unfold takeMarkerWrite
  split
  · exact .refl s
  · refine Keeps.ite (fun _ => ⟨id, id, id, id, id, id⟩) fun _ => ?_
    refine Keeps.trans (t := { s with epoch.markers := s.epoch.markers.filter (fun x => x.sequence != q) })
      ⟨id, id, id, id, id, id⟩ ?_
    exact Keeps.ite (fun _ => keeps_journalWriteFault _) fun _ => keeps_complete _ _

theorem keeps_takeOldestAdvance (s : State) : Keeps s (takeOldestAdvance s) := by
  unfold takeOldestAdvance
  split
  · exact .refl s
  · refine Keeps.trans ?_ (keeps_drainTest _)
    refine Keeps.trans ?_ (keeps_takeAdvance _ _)
    exact ⟨id, id, id, id, id, id⟩

theorem keeps_takeExhaustion (s : State) : Keeps s (takeExhaustion s) := by
  unfold takeExhaustion
  refine Keeps.ite (fun _ => .refl s) fun _ => ?_
  refine Keeps.trans (t := { s with epoch.exhaustions := s.epoch.exhaustions - 1 }) ⟨id, id, id, id, id, id⟩ ?_
  exact Keeps.ite (fun h => keeps_enterBroken (by rw [h]; simp) (by simp [Engine.brokenRetryable])) fun _ => .refl _

theorem quietCommitOk_iff (s : State) : quietCommitOk s = true ↔
    s.epoch.engine = .capturing ∧ 0 < s.epoch.captureCount ∧ s.epoch.index.length < 16 ∧
      (s.journal.head - s.journal.release).toNat < s.journal.slots := by
  have hfree : 0 < s.journal.free ↔ (s.journal.head - s.journal.release).toNat < s.journal.slots := by
    rw [Nat.pos_iff_ne_zero, ne_eq, free_eq_zero_iff, Nat.not_le]
  simp only [quietCommitOk, Bool.and_eq_true, beq_iff_eq, decide_eq_true_eq, hfree, and_assoc]
  exact Iff.rfl

/-- The quiet timer, which ran, is started again at tQUIET (R14). -/
theorem keeps_takeQuietExpiry (s : State) : Keeps s (takeQuietExpiry s) := by
  unfold takeQuietExpiry
  refine Keeps.ite (fun hquiet => ?_) fun _ => .refl s
  refine Keeps.trans (t := { s with epoch.quiet := quietFull s.epoch.tQuiet }) ⟨id, id, ?_, id, id, id⟩ ?_
  · rintro ⟨hbase, hlow, hhigh, hq, hlwm, hflush, hrun, hfrun⟩
    obtain ⟨hon, -⟩ := hrun 0 hquiet
    refine ⟨hbase, hlow, hhigh, hq, hlwm, hflush, fun n hn => ⟨hon, ?_⟩, hfrun⟩
    cases hn
    exact le_rfl
  · refine Keeps.ite (fun hok => ?_) fun _ => .refl _
    obtain ⟨hengine, -, hroom, -⟩ := (quietCommitOk_iff _).1 hok
    exact Keeps.trans (keeps_commit .quiet hengine hroom) (keeps_lowWaterTest _)

/-! ### The hold queue -/

theorem keeps_takePass (s : State) : Keeps s (takePass s) := by
  unfold takePass
  refine Keeps.ite (fun _ => .refl s) fun _ => ?_
  refine Keeps.trans (Keeps.trans ?_ (keeps_runPass _)) (keeps_expireOverdue _)
  exact ⟨id, id, id, id, id, id⟩

theorem keeps_takeHoldExpiry (s : State) (id : Ident) : Keeps s (takeHoldExpiry s id) := by
  unfold takeHoldExpiry
  split
  · exact .refl s
  · exact Keeps.ite (fun _ => keeps_takeExpiry s _) fun _ => .refl s

/-! ### The restore engine -/

theorem keeps_takeRestoreRead (s : State) (k : Fin 5) (st : DStatus) (data : Line) : Keeps s (takeRestoreRead s k st data) := by
  unfold takeRestoreRead
  refine Keeps.ite (fun _ => .refl s) fun _ => ?_
  refine Keeps.trans (t := { s with restore := s.restore.takeRead k st data }) ⟨id, id, id, id, id, id⟩ ?_
  refine Keeps.ite (fun _ => .refl _) fun _ => Keeps.ite (fun _ => ⟨id, id, id, id, id, id⟩) fun _ =>
    Keeps.ite (fun _ => keeps_reportRestore _ _) fun _ => keeps_judgeRecord _

theorem keeps_issueWriteBacks (s : State) : Keeps s (issueWriteBacks s) := by
  unfold issueWriteBacks
  refine Keeps.ite (fun _ => ?_) fun _ => .refl s
  refine Keeps.trans ?_ (keeps_readyRestore _ _)
  exact ⟨id, id, id, id, id, id⟩

theorem keeps_takeWriteBack (s : State) (st : DStatus) : Keeps s (takeWriteBack s st) := by
  unfold takeWriteBack
  refine Keeps.ite (fun _ => .refl s) fun _ => Keeps.ite (fun _ => ⟨id, id, id, id, id, id⟩) fun _ =>
    Keeps.ite (fun _ => ⟨id, id, id, id, id, id⟩) fun _ => ?_
  refine Keeps.trans ?_ (keeps_finishRecord _)
  exact ⟨id, id, id, id, id, id⟩

theorem keeps_takeWalkEnd (s : State) : Keeps s (takeWalkEnd s) := by
  unfold takeWalkEnd
  refine Keeps.ite (fun _ => ?_) fun _ => .refl s
  refine Keeps.trans (t := { s with restore.report := none }) ⟨id, id, id, id, id, id⟩ ?_
  exact Keeps.ite (fun h => keeps_completeRollback h) fun _ => .refl _

theorem keeps_restoreFaultEffect {s : State} (h : s.epoch.engine = .restoring) (reason : RestoreReason) :
    Keeps s (restoreFaultEffect s reason) := by
  refine Keeps.trans ?_ (keeps_enterBroken (by simp [h]) (by simp [h, Engine.fenceUp]))
  refine Keeps.trans ?_ (keeps_post _ _)
  exact ⟨id, id, id, id, id, id⟩

theorem keeps_takeRestoreFault (s : State) : Keeps s (takeRestoreFault s) := by
  unfold takeRestoreFault
  split
  · refine Keeps.trans (t := { s with restore.report := none }) ⟨id, id, id, id, id, id⟩ ?_
    exact Keeps.ite (fun h => keeps_restoreFaultEffect h _) fun _ => .refl _
  all_goals exact .refl s

theorem keeps_takeRestoreStop (s : State) : Keeps s (takeRestoreStop s) := by
  unfold takeRestoreStop
  refine Keeps.ite (fun _ => ?_) fun _ => .refl s
  refine Keeps.trans (t := { s with restore.report := none }) ⟨id, id, id, id, id, id⟩ ?_
  exact Keeps.ite (fun h => keeps_enterBroken (by rw [h]; simp) (by rw [h]; simp [Engine.fenceUp])) fun _ => .refl _

/-! ### The notice unit -/

theorem updateAttn_tryRingWrite (s : State) : updateAttn (tryRingWrite s) = tryRingWrite (updateAttn s) := by
  unfold tryRingWrite
  rw [show (updateAttn s).notice.buffer = s.notice.buffer from rfl]
  cases s.notice.buffer with
  | nil => rfl
  | cons n rest =>
    simp only [show (updateAttn s).notice.ringReady = s.notice.ringReady from rfl]
    split <;> rfl

theorem updateAttn_post (s : State) (b : NoticeBody) : updateAttn (post s b) = post (updateAttn s) b := by
  unfold post
  rw [show (updateAttn s).notice.buffer = s.notice.buffer from rfl]
  split
  · exact updateAttn_tryRingWrite _
  · rfl

/-- The report of losses, once there are none to report. -/
theorem reportOverrun_eq (s : State) : reportOverrun s =
    if s.notice.overrunCount = 0 then { s with notice.overrunCount := 0 }
    else post { s with notice.overrunCount := 0 } (.noticeOverrun s.notice.overrunCount) := by
  unfold reportOverrun
  split
  · rename_i h
    conv_rhs => rw [← h]
  · rfl

theorem updateAttn_reportOverrun (s : State) : updateAttn (reportOverrun s) =
    if s.notice.overrunCount = 0 then updateAttn { s with notice.overrunCount := 0 }
    else post (updateAttn { s with notice.overrunCount := 0 }) (.noticeOverrun s.notice.overrunCount) := by
  rw [reportOverrun_eq]
  split
  · rfl
  · exact updateAttn_post _ _

/-- What the writing of a notice changes, but for its urgent mark and the flush timer (R169). -/
theorem noticeWritten_frame (u : NoticeUnit) (p : Seq) : noticeWritten u p =
    { u with buffer := u.buffer.drop 1, inFlight := none, writePos := u.writePos + 1,
             lastUrgent := (noticeWritten u p).lastUrgent, flush := (noticeWritten u p).flush } := by
  unfold noticeWritten startFlush
  simp only
  split <;> split <;> rfl

/-- The flush timer is started at tFLUSH, which is not off, or left alone (R175). -/
theorem startFlush_flush (u : NoticeUnit) :
    (startFlush u).flush = .running u.tFlush ∧ u.tFlush ≠ 0 ∨ (startFlush u).flush = u.flush := by
  unfold startFlush
  split
  · rename_i h
    exact .inl ⟨rfl, h.2⟩
  · exact .inr rfl

/-- A notice written to the ring leaves the buffer, and the write position moves over it; the losses are taken for reported, and
ATTN is set by its condition (R169). -/
theorem keeps_noticeWritten {s : State} {p : Seq} (hp : s.notice.inFlight = some p) (hc : s.notice.configured = true) :
    Keeps s (updateAttn { s with notice := { noticeWritten s.notice p with overrunCount := 0 } }) := by
  have hflush : (noticeWritten s.notice p).flush = .running s.notice.tFlush ∧ s.notice.tFlush ≠ 0 ∨
      (noticeWritten s.notice p).flush = s.notice.flush := startFlush_flush _
  rw [noticeWritten_frame]
  generalize (noticeWritten s.notice p).flush = flush at *
  generalize (noticeWritten s.notice p).lastUrgent = lastUrgent
  refine ⟨?_, id, ?_, id, id, ?_⟩
  · rintro ⟨hbuffer, hrest⟩
    exact ⟨by simp; omega, hrest⟩
  · rintro ⟨hbase, hlow, hhigh, hq, hlwm, htf, hrun, hfrun⟩
    refine ⟨hbase, hlow, hhigh, hq, hlwm, htf, hrun, fun n hn => ?_⟩
    rcases hflush with ⟨hr, ht⟩ | hr
    · cases hr.symm.trans hn
      exact ⟨ht, le_rfl⟩
    · exact hfrun n (hr.symm.trans hn)
  · rintro ⟨hbuffer, -, hsize, -, hroom, -⟩
    have hlt := hroom hc (by simp [hp])
    have hunacked : (s.notice.writePos + 1 - s.notice.ackPos).toNat ≤ s.notice.size := by
      unfold NoticeUnit.unacked at hlt
      bv_omega
    exact ⟨by simp; omega, fun h => absurd rfl h, hsize, hunacked, fun _ h => (by cases h), rfl⟩

/-- The same without a ring: the notice whose write was still out leaves the buffer (R178). -/
theorem keeps_bufferDrop (s : State) :
    Keeps s { s with notice := { s.notice with buffer := s.notice.buffer.drop 1, inFlight := none, overrunCount := 0 } } := by
  refine ⟨?_, id, id, id, id, ?_⟩
  · rintro ⟨hbuffer, hrest⟩
    exact ⟨by simp; omega, hrest⟩
  · rintro ⟨hbuffer, -, hsize, hunacked, -, hattn⟩
    exact ⟨by simp; omega, fun h => absurd rfl h, hsize, hunacked, fun _ h => (by cases h), hattn⟩

theorem keeps_takeNoticeWrite (s : State) (st : DStatus) : Keeps s (takeNoticeWrite s st) := by
  unfold takeNoticeWrite
  split
  · exact .refl s
  · rename_i p hp
    refine Keeps.ite (fun hc => ?_) fun _ => ?_
    · rw [updateAttn_tryRingWrite, updateAttn_reportOverrun]
      refine Keeps.trans ?_ (keeps_tryRingWrite _)
      exact Keeps.ite (fun _ => keeps_noticeWritten hp hc) fun _ => (keeps_noticeWritten hp hc).trans (keeps_post _ _)
    · rw [reportOverrun_eq]
      exact Keeps.ite (fun _ => keeps_bufferDrop s) fun _ => (keeps_bufferDrop s).trans (keeps_post _ _)
  · refine Keeps.ite (fun _ => ?_) fun _ => ?_
    all_goals
      refine ⟨id, id, id, id, id, ?_⟩
      rintro ⟨hbuffer, hlost, hsize, hunacked, -, hattn⟩
    · exact ⟨hbuffer, hlost, hsize, hunacked, fun _ h => (by cases h), rfl⟩
    · exact ⟨hbuffer, hlost, hsize, hunacked, fun _ h => (by cases h), hattn⟩

theorem keeps_takeFlushExpiry (s : State) : Keeps s (takeFlushExpiry s) := by
  unfold takeFlushExpiry
  refine Keeps.ite (fun _ => ⟨id, id, ?_, id, id, ?_⟩) fun _ => .refl s
  · rintro ⟨hbase, hlow, hhigh, hq, hlwm, htf, hrun, -⟩
    exact ⟨hbase, hlow, hhigh, hq, hlwm, htf, hrun, fun n hn => by cases hn⟩
  · rintro ⟨hbuffer, hlost, hsize, hunacked, hroom, -⟩
    exact ⟨hbuffer, hlost, hsize, hunacked, hroom, rfl⟩

/-! ### The status writer -/

theorem keeps_takeStatusLine (s : State) (st : DStatus) : Keeps s (takeStatusLine s st) := by
  unfold takeStatusLine
  split
  · exact .refl s
  · refine Keeps.ite (fun _ => keeps_endStatus s) fun _ => ?_
    refine Keeps.trans ?_ (keeps_readyStatusLine _ _)
    exact ⟨id, id, id, id, id, id⟩
  · refine Keeps.trans ?_ (keeps_endStatus _)
    exact ⟨id, id, id, id, id, id⟩

theorem keeps_takeStatusRequest (s : State) : Keeps s (takeStatusRequest s) := by
  unfold takeStatusRequest
  refine Keeps.ite (fun _ => .refl s) fun _ => ?_
  refine Keeps.trans (t := { s with status.requests := s.status.requests - 1 }) ⟨id, id, id, id, id, id⟩ ?_
  exact Keeps.ite (fun _ => ⟨id, id, id, id, id, id⟩) fun _ => keeps_beginStatus _

end Sys2Proof.Machine
end

section
/-! PROOF. The invariants kept by the commands of the command window. -/

namespace Sys2Proof.Machine

/-! ### Areas -/

theorem apart_of_not_meets {a : Area} {b : Option Area} (h : meetsOpt a b = false) : Apart (some a) b := by
  rintro x y ⟨rfl⟩ rfl n ⟨hx, hy⟩
  simp only [meetsOpt, Option.any_some, Area.meets, Area.holds, decide_eq_false_iff_not, decide_eq_true_eq] at h hx hy
  omega

theorem apart_none_left (b : Option Area) : Apart none b := by rintro x y ⟨⟩

theorem apart_none_right (a : Option Area) : Apart a none := by rintro x y _ ⟨⟩

/-- A range meets a window other than the excepted one exactly when it meets the range of one (R31). -/
theorem meetsWindow_iff (ws : Vector Window 16) (except : Option Nat) (a : Area) : meetsWindow ws except a = true ↔
    ∃ i : Fin 16, some i.val ≠ except ∧ meetsOpt a ws[i].area? = true := by
  unfold meetsWindow
  rw [List.any_eq_true]
  constructor
  · rintro ⟨⟨n, w⟩, hmem, h⟩
    obtain ⟨k, hk, hget⟩ := List.mem_iff_getElem.1 hmem
    simp only [List.getElem_zip, List.getElem_range, Prod.mk.injEq] at hget
    obtain ⟨rfl, rfl⟩ := hget
    have hk16 : k < 16 := by simpa using hk
    simp only [Bool.and_eq_true, bne_iff_ne] at h
    exact ⟨⟨k, hk16⟩, h.1, by simpa using h.2⟩
  · rintro ⟨i, hne, h⟩
    refine ⟨(i.val, ws[i]), List.mem_iff_getElem.2 ⟨i.val, by simp, by simp⟩, ?_⟩
    simp only [Bool.and_eq_true, bne_iff_ne]
    exact ⟨hne, h⟩

/-- A window that a range does not meet is apart from it. -/
theorem apart_of_not_meetsWindow {ws : Vector Window 16} {except : Option Nat} {a : Area}
    (h : meetsWindow ws except a = false) (i : Fin 16) (hi : some i.val ≠ except) : Apart (some a) ws[i].area? := by
  refine apart_of_not_meets (Bool.eq_false_iff.2 fun hm => ?_)
  rw [(meetsWindow_iff ws except a).2 ⟨i, hi, hm⟩] at h
  cases h

/-- A window whose mode is OFF has no range. -/
theorem area?_of_off {w : Window} (h : w.mode = .off) : w.area? = none := by simp [Window.area?, h]

/-- The windows with one of them replaced, if the index names one. -/
theorem getElem_setIfInBounds_window (ws : Vector Window 16) (n : Nat) (w : Window) (i : Fin 16) :
    (ws.setIfInBounds n w)[i] = if i.val = n then w else ws[i] := by
  simp only [Fin.getElem_fin, Vector.getElem_setIfInBounds, eq_comm]

/-! ### The taking of a command -/

theorem keeps_answer (s : State) (q : QueuedCommand) (r : Result) : Keeps s (answer s q r) := by
  unfold answer
  refine Keeps.trans (Keeps.trans (t := { s with cmd.taken := s.cmd.taken + 1, cmd.last := some ⟨q.tag, q.opcode, r⟩ })
    ⟨id, id, id, id, id, id⟩ ?_) (keeps_askStatus _)
  exact Keeps.ite (fun _ => .refl _) fun _ => keeps_post _ _

/-- A command keeps the invariants if an accepted one's change does, and what the change sets in motion. -/
theorem keeps_takeCommand {s : State} {isIt : Byte → Bool} {rule : Rule}
    (hchange : ∀ t l, t.mgmt.device ≠ .offline → (rule.judge t l).accepted = true → Keeps t (rule.change t l))
    (hafter : ∀ t l u, (rule.judge t l).accepted = true → Keeps u (rule.after u l)) : Keeps s (takeCommand s isIt rule) := by
  unfold takeCommand
  split
  · exact .refl s
  · rename_i q rest hqueue
    refine Keeps.ite (fun ⟨hdevice, _⟩ => ?_) fun _ => .refl s
    refine Keeps.trans (t := { s with cmd.queue := rest }) (keeps_queue s _ fun h => ?_) ?_
    · rw [hqueue] at h
      simp at h ⊢
      omega
    · unfold applyRule
      refine Keeps.ite (fun haccepted => ?_) fun _ => keeps_answer _ _ _
      exact ((hchange { s with cmd.queue := rest } _ hdevice haccepted).trans (keeps_answer _ _ _)).trans (hafter _ _ _ haccepted)

/-! ### WINDOW_SET -/

/-- The contents that well-formed arguments give a window cover the requested range, and no other. -/
theorem contents_area? {a : WindowArgs} (h : a.ok = true) : a.contents.area? = a.area? := by
  unfold WindowArgs.ok at h
  rw [Bool.and_eq_true] at h
  have hmode := h.2
  split at hmode
  · rename_i h0
    simp [WindowArgs.contents, WindowArgs.area?, h0, Window.cleared, Window.area?]
  · rename_i h1
    have hrange := of_decide_eq_true hmode
    simp only [Config.lastAddress] at hrange
    simp only [WindowArgs.contents, WindowArgs.area?, h1, Window.area?, BitVec.toNat_ofNat]
    simp only [Nat.mod_eq_of_lt (show a.base < 2 ^ 48 by omega), Nat.mod_eq_of_lt (show a.limit < 2 ^ 48 by omega)]
    simp
  · rename_i h2
    have hrange := of_decide_eq_true hmode
    simp only [Config.lastAddress] at hrange
    simp only [WindowArgs.contents, WindowArgs.area?, h2, Window.area?, BitVec.toNat_ofNat]
    simp only [Nat.mod_eq_of_lt (show a.base < 2 ^ 48 by omega), Nat.mod_eq_of_lt (show a.limit < 2 ^ 48 by omega)]
    simp
  · cases hmode

/-- An accepted WINDOW_SET has well-formed arguments and a range that meets no other area (R28). -/
theorem accepted_windowSet {s : State} {l : Line} (h : (judgeWindowSet s l).accepted = true) :
    (windowArgs l).ok = true ∧ windowOverlaps s (windowArgs l) = false := by
  unfold judgeWindowSet at h
  simp only at h
  split_ifs at h <;> simp_all [Result.accepted]

theorem keeps_changeWindowSet {s : State} {l : Line} (hdevice : s.mgmt.device ≠ .offline)
    (h : (judgeWindowSet s l).accepted = true) : Keeps s (changeWindowSet s l) := by
  obtain ⟨hok, hoverlap⟩ := accepted_windowSet h
  have harea := contents_area? hok
  unfold changeWindowSet
  generalize windowArgs l = a at *
  refine ⟨id, id, id, id, ?_, id⟩
  rintro ⟨hwindows, hothers, hcj, hcn, hjn, -⟩
  have hnew : (∀ j : Fin 16, j.val ≠ a.index → Apart a.area? s.windows[j].area?) ∧ Apart a.area? s.commandArea? ∧
      Apart a.area? s.journalArea? ∧ Apart a.area? s.noticeArea? := by
    cases hr : a.area? with
    | none => exact ⟨fun _ _ => apart_none_left _, apart_none_left _, apart_none_left _, apart_none_left _⟩
    | some r =>
      simp only [windowOverlaps, hr, Option.any_some, Bool.or_eq_false_iff] at hoverlap
      obtain ⟨⟨⟨hw, hc⟩, hj⟩, hn⟩ := hoverlap
      exact ⟨fun j hne => apart_of_not_meetsWindow hw j (by simpa using hne), apart_of_not_meets hc, apart_of_not_meets hj,
        apart_of_not_meets hn⟩
  obtain ⟨hnw, hnc, hnj, hnn⟩ := hnew
  refine ⟨fun i j hij => ?_, fun i => ?_, hcj, hcn, hjn, fun hoff => absurd hoff hdevice⟩
  · simp only [getElem_setIfInBounds_window]
    split <;> split
    · exact absurd (Fin.ext (by omega)) hij
    · rw [harea]; exact hnw j (by assumption)
    · rw [harea]; exact (hnw i (by assumption)).symm
    · exact hwindows i j hij
  · simp only [getElem_setIfInBounds_window]
    split
    · rw [harea]; exact ⟨hnc, hnj, hnn⟩
    · exact hothers i

/-! ### JOURNAL_SET and JOURNAL_CLEAR -/

/-- The thirteen sizes that start at `first` and double. -/
theorem mem_doubling_iff (first n : Nat) : n ∈ (List.range 13).map (fun k => first * 2 ^ k) ↔ ∃ k ≤ 12, n = first * 2 ^ k := by
  simp only [List.mem_map, List.mem_range, Nat.lt_succ_iff, eq_comm (b := n)]

theorem journalSizeOk_iff (n : Nat) : journalSizeOk n = true ↔ ∃ k ≤ 12, n = 256 * 2 ^ k := by
  rw [← mem_doubling_iff, journalSizeOk, List.contains_iff_mem]
  rfl

/-- An accepted JOURNAL_SET comes to a LISTENING device and asks for an area in the address space that meets no other (R66). -/
theorem accepted_journalSet {s : State} {l : Line} (h : (judgeJournalSet s l).accepted = true) :
    s.mgmt.device = .listening ∧ journalSizeOk (journalSizeArg l) = true ∧
      journalBaseArg l + journalSizeArg l * 320 - 1 ≤ 281474976710655 ∧
      journalOverlaps s (journalArea (journalBaseArg l) (journalSizeArg l)) = false := by
  unfold judgeJournalSet at h
  simp only at h
  split_ifs at h with hdevice _ hsize hlast hoverlap <;> simp_all [Result.accepted, Config.lastAddress]

theorem keeps_changeJournalSet {s : State} {l : Line} (h : (judgeJournalSet s l).accepted = true) :
    Keeps s (changeJournalSet s l) := by
  obtain ⟨hlistening, hsize, hlast, hoverlap⟩ := accepted_journalSet h
  obtain ⟨k, -, hk⟩ := (journalSizeOk_iff _).1 hsize
  have hpos : 1 ≤ journalSizeArg l := by rw [hk]; have := Nat.one_le_two_pow (n := k); omega
  unfold changeJournalSet
  generalize journalSizeArg l = n at *
  generalize journalBaseArg l = base at *
  refine keeps_setEngine_of _ ⟨id, id, ?_, ?_, ?_, id⟩
  · rintro ⟨hbase, hlow, hhigh, hq, hlwm, htf, -, hfrun⟩
    exact ⟨hbase, hlow, hhigh, hq, hlwm, htf, fun n hn => (by cases hn), hfrun⟩
  · intro _
    exact engineSound_capturing (older := []) rfl rfl rfl rfl rfl rfl (by simp) (by simp) (by simp) (by simp) (by simp) (by decide)
  · rintro ⟨hwindows, hothers, -, hcn, -, -⟩
    simp only [journalOverlaps, Bool.or_eq_false_iff] at hoverlap
    obtain ⟨⟨hw, hc⟩, hn⟩ := hoverlap
    have hcommand : s.commandArea? = some ⟨s.mgmt.cwBase.toNat, s.mgmt.cwBase.toNat + 4095⟩ := by
      simp [State.commandArea?, hlistening]
    have hbase : (BitVec.ofNat 48 base).toNat = base := by
      rw [BitVec.toNat_ofNat]
      exact Nat.mod_eq_of_lt (by omega)
    rw [hcommand] at hothers hcn hc
    simp only [AreasDisjoint, State.journalArea?, State.commandArea?, hbase]
    exact ⟨hwindows, fun i => ⟨(hothers i).1, (apart_of_not_meetsWindow hw i (by simp)).symm, (hothers i).2.2⟩,
      (apart_of_not_meets hc).symm, hcn, apart_of_not_meets hn, fun h => by cases h⟩

/-- An accepted JOURNAL_CLEAR comes to a RUNNING device (R19). -/
theorem accepted_journalClear {s : State} {l : Line} (h : (judgeJournalClear s l).accepted = true) :
    s.mgmt.device = .running := by
  unfold judgeJournalClear at h
  split_ifs at h with hdevice
  · cases h
  all_goals simpa using hdevice

theorem keeps_changeJournalClear {s : State} {l : Line} (h : (judgeJournalClear s l).accepted = true) :
    Keeps s (changeJournalClear s l) := by
  have hrunning := accepted_journalClear h
  unfold changeJournalClear
  refine keeps_setEngine_of _ ⟨id, fun ⟨_, _, hslots⟩ => ⟨by simp, by simp, hslots⟩, ?_, ?_, ?_, id⟩
  · rintro ⟨hbase, hlow, hhigh, hq, hlwm, htf, -, hfrun⟩
    exact ⟨hbase, hlow, hhigh, hq, hlwm, htf, fun n hn => (by cases hn), hfrun⟩
  · intro _
    refine ⟨by simp, fun _ => ⟨rfl, rfl⟩, fun h => absurd rfl h, by simp [EpochController.reset], by simp [EpochController.reset],
      by simp [EpochController.reset], rfl, fun t ht => by cases ht⟩
  · rintro ⟨hwindows, hothers, -, hcn, -, -⟩
    have hcommand : s.commandArea? = some ⟨s.mgmt.cwBase.toNat, s.mgmt.cwBase.toNat + 4095⟩ := by
      simp [State.commandArea?, hrunning]
    rw [hcommand] at hothers hcn
    exact ⟨hwindows, fun i => ⟨(hothers i).1, apart_none_right _, (hothers i).2.2⟩, apart_none_right _, hcn, apart_none_left _,
      fun h => by cases h⟩

/-! ### JOURNAL_RELEASE -/

/-- The entries after one of the index, and the older ones before it (R16). -/
theorem drop_olderThan {index : List IndexEntry} {n : EpochNo} {e : IndexEntry}
    (h : index.find? (fun x => x.number == n) = some e) :
    index = olderThan index n ++ e :: index.drop ((olderThan index n).length + 1) := by
  induction index with
  | nil => cases h
  | cons a index ih =>
    by_cases ha : a.number = n
    · simp only [List.find?_cons, ha, beq_self_eq_true] at h
      cases h
      simp [olderThan, ha]
    · rw [List.find?_cons_of_neg (by simpa using ha)] at h
      have ha' : (a.number != n) = true := by simpa using ha
      simp only [olderThan, List.takeWhile_cons, ha', if_true, List.length_cons, List.drop_succ_cons, List.cons_append]
      exact congrArg (a :: ·) (ih h)

/-- An epoch older than another stands before it in the index (R15). -/
theorem mem_drop_olderThan {index : List IndexEntry} {n t : EpochNo} (ht : t ∈ index.map (fun e => e.number))
    (h : ∃ x ∈ olderThan index t, x.number = n) :
    t ∈ (index.drop ((olderThan index n).length + 1)).map (fun e => e.number) := by
  induction index with
  | nil => cases ht
  | cons a index ih =>
    obtain ⟨x, hx, hxn⟩ := h
    have hat : (a.number != t) = true := by
      by_contra hcon
      simp [olderThan, hcon] at hx
    have ht' : t ∈ index.map (fun e => e.number) := by
      rcases List.mem_cons.1 ht with h | h
      · simp [h] at hat
      · exact h
    by_cases han : a.number = n
    · simpa [olderThan, han] using ht'
    · have han' : (a.number != n) = true := by simpa using han
      simp only [olderThan, List.takeWhile_cons, han', hat, if_true, List.length_cons, List.drop_succ_cons] at hx ⊢
      refine ih ht' ⟨x, ?_, hxn⟩
      rcases List.mem_cons.1 hx with h | h
      · exact absurd (h ▸ hxn) han
      · exact h

/-- What an accepted JOURNAL_RELEASE comes to: a CLOSED epoch, and no rollback under way that needs it (R15). -/
theorem accepted_journalRelease {s : State} {l : Line} (h : (judgeJournalRelease s l).accepted = true) :
    s.mgmt.device = .running ∧ ∃ e, s.epoch.entry? (s.epoch.resolve (epochArg l)) = some e ∧ e.state = .closed ∧
      (s.epoch.engine.fenceUp = true → olderThanTarget s.epoch (s.epoch.resolve (epochArg l)) = true) := by
  unfold judgeJournalRelease at h
  simp only at h
  split at h
  · cases h
  · rename_i hdevice
    split at h
    · cases h
    · rename_i hengine
      refine ⟨by simpa using hdevice, ?_⟩
      cases he : s.epoch.entry? (s.epoch.resolve (epochArg l)) with
      | none => rw [he] at h; cases h
      | some e =>
        rw [he] at h
        simp only at h
        split_ifs at h with hstate hbusy
        · cases h
        · cases h
        · refine ⟨e, rfl, by simpa using hstate, fun hfence => ?_⟩
          have hretry : s.epoch.engine.brokenRetryable = true := by
            cases hs : s.epoch.engine with
            | broken c => cases c <;> simp_all [Engine.fenceUp, Engine.brokenRetryable]
            | _ => simp_all [Engine.fenceUp]
          simpa [hretry] using hbusy

theorem keeps_changeJournalRelease {s : State} {l : Line} (h : (judgeJournalRelease s l).accepted = true) :
    Keeps s (changeJournalRelease s l) := by
  obtain ⟨hrun, e, hentry, hclosed, holder⟩ := accepted_journalRelease h
  unfold changeJournalRelease
  simp only
  generalize s.epoch.resolve (epochArg l) = n at *
  refine ⟨id, id, id, ?_, id, id⟩
  rintro ⟨hrunning, -, hshape, hlength, hnodup, hzero, htarget, hnamed⟩
  have hlive := hrunning.1 hrun
  have hsplit := drop_olderThan hentry
  have hsub : (s.epoch.index.drop ((olderThan s.epoch.index n).length + 1)).Sublist s.epoch.index := List.drop_sublist _ _
  refine ⟨hrunning, fun ha => absurd ha hlive, fun _ => ?_, hsub.length_le.trans hlength, hnodup.sublist (hsub.map _),
    fun hz => hzero ((hsub.map _).subset hz), htarget, fun t ht => ?_⟩
  · obtain ⟨older, newest, hindex, hopen, hcurrent, hold⟩ := hshape hlive
    rcases List.eq_nil_or_concat (s.epoch.index.drop ((olderThan s.epoch.index n).length + 1)) with hnil | ⟨newer, last, hlast⟩
    · rw [hnil, hindex] at hsplit
      obtain ⟨-, hne⟩ := List.append_inj' hsplit rfl
      simp only [List.cons.injEq, and_true] at hne
      rw [hne, hclosed] at hopen
      cases hopen
    · rw [List.concat_eq_append] at hlast
      rw [hlast, hindex, ← List.cons_append, ← List.append_assoc] at hsplit
      obtain ⟨hfront, hback⟩ := List.append_inj' hsplit rfl
      simp only [List.cons.injEq, and_true] at hback
      exact ⟨newer, newest, by simp only; rw [hlast, hback], hopen, hcurrent,
        fun x hx => hold x (by rw [hfront]; simp [hx])⟩
  · have ht : s.epoch.target = some t := ht
    have hfence : s.epoch.engine.fenceUp = true := by rw [← htarget, ht]; rfl
    have hot := holder hfence
    simp only [olderThanTarget, ht, Option.any_some, List.any_eq_true, beq_iff_eq] at hot
    exact mem_drop_olderThan (hnamed t ht) hot

/-! ### EPOCH_COMMIT, EPOCH_ROLLBACK, ROLLBACK_ABORT and EPOCH_RESUME -/

/-- An accepted EPOCH_COMMIT comes to a CAPTURING engine with room in the index (R8). -/
theorem accepted_epochCommit {s : State} {l : Line} (h : (judgeEpochCommit s l).accepted = true) :
    s.epoch.engine = .capturing ∧ s.epoch.index.length < 16 := by
  unfold judgeEpochCommit Config.indexCapacity at h
  split_ifs at h with _ hengine hindex
  · cases h
  · cases h
  · cases h
  · cases h
  · exact ⟨by simpa using hengine, by omega⟩

/-- An accepted EPOCH_ROLLBACK names an entry of the index of a RUNNING device (R103). -/
theorem accepted_epochRollback {s : State} {l : Line} (h : (judgeEpochRollback s l).accepted = true) :
    s.mgmt.device = .running ∧ ∃ e, s.epoch.entry? (s.epoch.resolve (epochArg l)) = some e := by
  unfold judgeEpochRollback at h
  simp only at h
  split_ifs at h with hdevice
  · cases h
  · cases h
  · cases h
  all_goals
    refine ⟨by simpa using hdevice, ?_⟩
    cases he : s.epoch.entry? (s.epoch.resolve (epochArg l)) with
    | none => rw [he] at h; cases h
    | some e => exact ⟨e, rfl⟩

theorem keeps_changeEpochRollback {s : State} {l : Line} (h : (judgeEpochRollback s l).accepted = true) :
    Keeps s (changeEpochRollback s l) := by
  obtain ⟨hrun, e, hentry⟩ := accepted_epochRollback h
  unfold changeEpochRollback
  refine keeps_setEngine_of _ (keeps_epoch s _ rfl rfl ?_)
  rintro ⟨hrunning, -, hshape, hlength, hnodup, hzero, -, -⟩
  refine ⟨by simp [hrun], fun ha => (by cases ha), fun _ => hshape (hrunning.1 hrun), hlength, hnodup, hzero, rfl, fun t ht => ?_⟩
  cases ht
  have hmem := List.mem_of_find?_eq_some hentry
  have hnumber := List.find?_some hentry
  exact List.mem_map.2 ⟨e, hmem, by simpa using hnumber⟩

theorem keeps_changeRollbackAbort (s : State) (l : Line) : Keeps s (changeRollbackAbort s l) := by
  unfold changeRollbackAbort
  refine Keeps.ite (fun hdraining => ?_) fun _ => ⟨id, id, id, id, id, id⟩
  refine keeps_setEngine_of _ (keeps_epoch s _ rfl rfl ?_)
  rintro ⟨hrunning, -, hshape, hlength, hnodup, hzero, -, -⟩
  have hlive : s.epoch.engine ≠ .absent := by simp [hdraining]
  exact ⟨by simpa [hlive] using hrunning, fun ha => (by cases ha), fun _ => hshape hlive, hlength, hnodup, hzero, rfl,
    fun t ht => by cases ht⟩

/-- An accepted EPOCH_RESUME comes to a RUNNING device (R17). -/
theorem accepted_epochResume {s : State} {l : Line} (h : (judgeEpochResume s l).accepted = true) :
    s.mgmt.device = .running := by
  unfold judgeEpochResume at h
  split_ifs at h with hdevice
  · cases h
  all_goals simpa using hdevice

theorem keeps_changeEpochResume {s : State} {l : Line} (h : (judgeEpochResume s l).accepted = true) :
    Keeps s (changeEpochResume s l) := by
  have hrun := accepted_epochResume h
  unfold changeEpochResume
  obtain ⟨hnonzero, -⟩ := nextNumber_spec s.epoch.current [] (by simp)
  refine keeps_setEngine_of _ ⟨id, fun ⟨_, _, hslots⟩ => ⟨by simp, by simp, hslots⟩, id, fun _ => ?_, id, id⟩
  exact engineSound_capturing (older := []) hrun rfl rfl rfl rfl rfl (by simp) (by simp) (by simp) (by simp) (by simp) hnonzero

/-! ### NOTICE_SET and NOTICE_ACK -/

theorem ringSizeOk_iff (m : Nat) : ringSizeOk m = true ↔ ∃ k ≤ 12, m = 16 * 2 ^ k := by
  rw [← mem_doubling_iff, ringSizeOk, List.contains_iff_mem]
  rfl

/-- The argument checks of NOTICE_SET (R171). -/
theorem ringArgs_ok_iff (a : RingArgs) : a.ok = true ↔
    a.base % 32 = 0 ∧ (∃ k ≤ 12, a.size = 16 * 2 ^ k) ∧ a.base + a.size * 32 - 1 ≤ 281474976710655 ∧
      1 ≤ a.threshold ∧ a.threshold ≤ 255 ∧ a.tFlush ≤ 65535 ∧ a.urgent % 2 = 0 ∧ a.urgent < 8192 := by
  simp only [RingArgs.ok, Bool.and_eq_true, decide_eq_true_eq, ringSizeOk_iff, and_assoc]
  exact Iff.rfl

/-- A size a notice ring may have is at most 65,536, and at least 16 (R168). -/
theorem ringSize_bounds {m : Nat} (h : ∃ k ≤ 12, m = 16 * 2 ^ k) : 16 ≤ m ∧ m ≤ 65536 := by
  obtain ⟨k, hk, rfl⟩ := h
  have h1 : 1 ≤ 2 ^ k := Nat.one_le_two_pow
  have h2 : 2 ^ k ≤ 2 ^ 12 := Nat.pow_le_pow_right (by omega) hk
  omega

/-- An accepted NOTICE_SET has well-formed arguments, no ring write out, and an area that meets no other (R171). -/
theorem accepted_noticeSet {s : State} {l : Line} (h : (judgeNoticeSet s l).accepted = true) :
    (ringArgs l).ok = true ∧ s.notice.inFlight = none ∧
      ringOverlaps s (noticeArea (ringArgs l).base (ringArgs l).size) = false := by
  unfold judgeNoticeSet at h
  simp only at h
  split_ifs at h with hok hbusy hoverlap
  · cases h
  · cases h
  · cases h
  · rw [not_or] at hbusy
    exact ⟨by simpa using hok, by simpa using hbusy.1, by simpa using hoverlap⟩

theorem keeps_changeNoticeSet {s : State} {l : Line} (hdevice : s.mgmt.device ≠ .offline)
    (h : (judgeNoticeSet s l).accepted = true) : Keeps s (changeNoticeSet s l) := by
  obtain ⟨hok, hidle, hoverlap⟩ := accepted_noticeSet h
  unfold changeNoticeSet
  simp only
  generalize ringArgs l = a at *
  obtain ⟨-, hsize, hlast, -, -, hflush, -⟩ := (ringArgs_ok_iff a).1 hok
  obtain ⟨hlow, hhigh⟩ := ringSize_bounds hsize
  refine Keeps.trans ?_ (keeps_tryRingWrite _)
  refine ⟨id, id, ?_, id, ?_, ?_⟩
  · rintro ⟨hbase, hlow, hhigh, hq, hlwm, -, hrun, -⟩
    exact ⟨hbase, hlow, hhigh, hq, hlwm, hflush, hrun, fun n hn => by cases hn⟩
  · rintro ⟨hwindows, hothers, hcj, -, -, -⟩
    simp only [ringOverlaps, Bool.or_eq_false_iff] at hoverlap
    obtain ⟨⟨hw, hc⟩, hj⟩ := hoverlap
    have hbase : (BitVec.ofNat 48 a.base).toNat = a.base := by
      rw [BitVec.toNat_ofNat]
      exact Nat.mod_eq_of_lt (by omega)
    simp only [AreasDisjoint, State.noticeArea?, updateAttn_notice, hbase, if_true]
    exact ⟨hwindows, fun i => ⟨(hothers i).1, (hothers i).2.1, (apart_of_not_meetsWindow hw i (by simp)).symm⟩, hcj,
      (apart_of_not_meets hc).symm, (apart_of_not_meets hj).symm, fun hoff => absurd hoff hdevice⟩
  · rintro ⟨hbuffer, hlost, -⟩
    exact ⟨hbuffer, hlost, hhigh, by simp [NoticeUnit.unacked], fun _ hf => absurd (hidle ▸ hf) (by simp), rfl⟩

/-- NOTICE_ACK moves the acknowledged position towards the write position (R173). -/
theorem keeps_changeNoticeAck {s : State} {l : Line} (h : (judgeNoticeAck s l).accepted = true) :
    Keeps s (changeNoticeAck s l) := by
  have hrange : (positionArg l - s.notice.ackPos).toNat ≤ s.notice.unacked := by
    unfold judgeNoticeAck at h
    split_ifs at h
    · assumption
    · cases h
  have hless : (s.notice.writePos - positionArg l).toNat ≤ s.notice.unacked := by
    unfold NoticeUnit.unacked at hrange ⊢
    bv_omega
  unfold changeNoticeAck
  simp only
  refine Keeps.trans ?_ (keeps_tryRingWrite _)
  have hcase (flush : FlushTimer) (hf : flush = .stopped ∨ flush = s.notice.flush) :
      Keeps s (updateAttn { s with notice.ackPos := positionArg l, notice.flush := flush }) := by
    refine ⟨id, id, ?_, id, id, ?_⟩
    · rintro ⟨hbase, hlow, hhigh, hq, hlwm, htf, hrun, hfrun⟩
      refine ⟨hbase, hlow, hhigh, hq, hlwm, htf, hrun, fun n hn => ?_⟩
      rcases hf with rfl | rfl
      · cases hn
      · exact hfrun n hn
    · rintro ⟨hbuffer, hlost, hsize, hunacked, hroom, -⟩
      exact ⟨hbuffer, hlost, hsize, hless.trans hunacked, fun hc hi => lt_of_le_of_lt hless (hroom hc hi), rfl⟩
  split
  · exact hcase .stopped (.inl rfl)
  · exact hcase s.notice.flush (.inr rfl)

/-! ### TIMING_SET -/

/-- An accepted TIMING_SET has its three values in their ranges (R153). -/
theorem accepted_timingSet {s : State} {l : Line} (h : (judgeTimingSet s l).accepted = true) :
    1 ≤ (timingArgs l).tHold ∧ (timingArgs l).tHold ≤ 65535 ∧ (timingArgs l).tQuiet ≤ 65535 ∧
      (timingArgs l).lwm ≤ 1048576 := by
  unfold judgeTimingSet Config.maxSlots at h
  simp only at h
  split_ifs at h with hbad
  · cases h
  · omega

/-- The quiet timer under a new tQUIET has at most its full time left (R13). -/
theorem keeps_changeTimingSet {s : State} {l : Line} (h : (judgeTimingSet s l).accepted = true) :
    Keeps s (changeTimingSet s l) := by
  obtain ⟨-, -, hquiet, -⟩ := accepted_timingSet h
  unfold changeTimingSet
  simp only
  generalize (timingArgs l).tQuiet = tQuiet at *
  refine ⟨id, id, ?_, id, id, id⟩
  rintro ⟨hbase, hlow, hhigh, -, hlwm, htf, hrun, hfrun⟩
  refine ⟨hbase, hlow, hhigh, hquiet, hlwm, htf, fun n hn => ?_, hfrun⟩
  simp only [retimeQuiet] at hn
  split_ifs at hn with hzero hsame
  · exact hsame ▸ hrun n hn
  · cases hq : s.epoch.quiet with
    | stopped => rw [hq] at hn; cases hn
    | running m =>
      rw [hq] at hn
      cases hn
      exact ⟨hzero, le_rfl⟩

theorem keeps_applyLwm (s : State) {lwm : Nat} (h : lwm ≤ 1048576) : Keeps s (applyLwm s lwm) := by
  unfold applyLwm
  refine Keeps.trans (t := { s with journal.lwm := lwm }) ⟨id, id, ?_, id, id, id⟩ ?_
  · rintro ⟨hbase, hlow, hhigh, hq, -, hrest⟩
    exact ⟨hbase, hlow, hhigh, hq, h, hrest⟩
  · exact Keeps.ite (fun _ => keeps_lowWaterTest _) fun _ => .refl _

theorem keeps_applyHold (s : State) {tHold : Nat} (hlow : 1 ≤ tHold) (hhigh : tHold ≤ 65535) : Keeps s (applyHold s tHold) := by
  unfold applyHold
  refine Keeps.trans (t := { s with hold.tHold := tHold }) ⟨id, id, ?_, id, id, id⟩ ?_
  · rintro ⟨hbase, -, -, hrest⟩
    exact ⟨hbase, hlow, hhigh, hrest⟩
  · exact Keeps.ite (fun _ => keeps_expireAll _ _) fun _ => .refl _

theorem keeps_afterTimingSet {s : State} {l : Line} (lwmFirst : Bool) (t : State) (h : (judgeTimingSet s l).accepted = true) :
    Keeps t (afterTimingSet lwmFirst t l) := by
  obtain ⟨hlow, hhigh, -, hlwm⟩ := accepted_timingSet h
  unfold afterTimingSet
  exact Keeps.ite (fun _ => (keeps_applyLwm t hlwm).trans (keeps_applyHold _ hlow hhigh))
    fun _ => (keeps_applyHold t hlow hhigh).trans (keeps_applyLwm _ hlwm)

end Sys2Proof.Machine
end

section
/-! PROOF. The invariants kept by the management port and by time, and so by every step; and that they hold at reset. -/

namespace Sys2Proof.Machine

/-! ### Registers -/

theorem toNat_append {v w : Nat} (x : BitVec v) (y : BitVec w) : (x ++ y).toNat = x.toNat * 2 ^ w + y.toNat := by
  rw [BitVec.toNat_append, ← Nat.shiftLeft_add_eq_or_of_lt y.isLt, Nat.shiftLeft_eq]

/-- CW_BASE after a write of its low half: the low twelve bits are 0 (R183). -/
theorem storeBase_lo_toNat (base : Addr) (data : BitVec 32) :
    (storeBase base .lo data).toNat = base.toNat / 4294967296 * 4294967296 + data.toNat / 4096 * 4096 := by
  have hb := base.isLt
  have hd := data.isLt
  simp only [storeBase, toNat_append, BitVec.extractLsb'_toNat, Nat.shiftRight_eq_div_pow]
  simp
  omega

/-- CW_BASE after a write of its high half: the high 16 bits written are discarded (R183). -/
theorem storeBase_hi_toNat (base : Addr) (data : BitVec 32) :
    (storeBase base .hi data).toNat = data.toNat % 65536 * 4294967296 + base.toNat % 4294967296 := by
  simp only [storeBase, toNat_append, BitVec.extractLsb'_toNat, Nat.shiftRight_eq_div_pow]
  simp

/-- CW_BASE stays page-aligned (R183). -/
theorem storeBase_aligned {base : Addr} (half : RegHalf) (data : BitVec 32) (h : base.toNat % 4096 = 0) :
    (storeBase base half data).toNat % 4096 = 0 := by
  cases half with
  | lo => rw [storeBase_lo_toNat]; omega
  | hi => rw [storeBase_hi_toNat]; omega

theorem keeps_writeFrame (s : State) : Keeps s (writeFrame s) := ⟨id, id, id, id, id, id⟩

theorem keeps_refuseWrite (s : State) : Keeps s (refuseWrite s) := ⟨id, id, id, id, id, id⟩

/-- CW_BASE moves while OFFLINE only, where there is no command window (R183). -/
theorem keeps_writeBase (s : State) (half : RegHalf) (data : BitVec 32) : Keeps s (writeBase s half data) := by
  unfold writeBase
  refine Keeps.ite (fun hoff => ⟨id, id, ?_, id, ?_, id⟩) fun _ => keeps_refuseWrite s
  · rintro ⟨hbase, hrest⟩
    exact ⟨storeBase_aligned half data hbase, hrest⟩
  · rintro ⟨hwindows, hothers, -, -, hjn, hclear⟩
    have hcommand : State.commandArea? { s with mgmt.cwBase := storeBase s.mgmt.cwBase half data } = none := by
      simp [State.commandArea?, hoff]
    simp only [AreasDisjoint, hcommand]
    exact ⟨hwindows, fun i => ⟨apart_none_right _, (hothers i).2⟩, apart_none_left _, apart_none_left _, hjn, hclear⟩

/-! ### Device states -/

/-- The device enters LISTENING from OFFLINE, where there is no window and no ring (R188). -/
theorem keeps_enterListening {s : State} (hoff : s.mgmt.device = .offline) : Keeps s (enterListening s) := by
  refine ⟨id, id, id, ?_, ?_, id⟩
  · rintro ⟨hrunning, hrest⟩
    exact ⟨by simpa [hoff, enterListening] using hrunning, hrest⟩
  · rintro ⟨hwindows, -, -, -, -, hclear⟩
    obtain ⟨hmodes, hring⟩ := hclear hoff
    have harea (i : Fin 16) : s.windows[i].area? = none := area?_of_off (hmodes i)
    have hnotice : s.noticeArea? = none := by simp [State.noticeArea?, hring]
    refine ⟨hwindows, fun i => ?_, apart_none_right _, ?_, apart_none_left _, fun h => by cases h⟩
    · show Apart s.windows[i].area? _ ∧ Apart s.windows[i].area? _ ∧ Apart s.windows[i].area? _
      rw [harea i]
      exact ⟨apart_none_left _, apart_none_left _, apart_none_left _⟩
    · show Apart _ s.noticeArea?
      rw [hnotice]
      exact apart_none_right _

theorem windowsReset_mode (i : Fin 16) : (windowsReset[i]).mode = .off := by simp [windowsReset, Window.cleared]

/-- Cleared windows and no ring leave nothing but the command window, the journal being there while RUNNING alone (R25, R178). -/
theorem areasDisjoint_cleared {s : State} (hdevice : s.mgmt.device ≠ .running) (hwindows : s.windows = windowsReset)
    (hring : s.notice.configured = false) : AreasDisjoint s := by
  have harea (i : Fin 16) : s.windows[i].area? = none := by
    rw [hwindows]
    exact area?_of_off (windowsReset_mode i)
  have hjournal : s.journalArea? = none := by
    cases h : s.mgmt.device with
    | running => exact absurd h hdevice
    | _ => simp [State.journalArea?, h]
  have hnotice : s.noticeArea? = none := by simp [State.noticeArea?, hring]
  simp only [AreasDisjoint, harea, hjournal, hnotice]
  refine ⟨fun _ _ _ => apart_none_left _, fun _ => ⟨apart_none_left _, apart_none_left _, apart_none_left _⟩, apart_none_right _,
    apart_none_right _, apart_none_left _, fun _ => ⟨fun i => ?_, hring⟩⟩
  rw [hwindows]
  exact windowsReset_mode i

/-- The device leaves LISTENING with the windows, the ring and the command queue cleared (R188, R178). -/
theorem keeps_leaveListening {s : State} (hlistening : s.mgmt.device = .listening) : Keeps s (leaveListening s) := by
  refine ⟨?_, id, ?_, ?_, fun _ => areasDisjoint_cleared (by simp [leaveListening]) rfl rfl, ?_⟩
  · rintro ⟨hbuffer, -, hrest⟩
    exact ⟨hbuffer, by simp [leaveListening], hrest⟩
  · rintro ⟨hbase, hlow, hhigh, hq, hlwm, -, hrun, -⟩
    refine ⟨hbase, hlow, hhigh, hq, hlwm, ?_, hrun, fun n hn => by cases hn⟩
    show Config.flushReset ≤ 65535
    decide
  · rintro ⟨hrunning, hrest⟩
    exact ⟨by simpa [hlistening, leaveListening] using hrunning, hrest⟩
  · rintro ⟨hbuffer, hlost, -⟩
    exact ⟨hbuffer, hlost, Nat.zero_le _, by simp [leaveListening, clearRing, NoticeUnit.reset, NoticeUnit.unacked],
      fun h => (by cases h),
      by simp [leaveListening, clearRing, NoticeUnit.reset, NoticeUnit.attnCondition, NoticeUnit.urgentUnread, NoticeUnit.unacked]⟩

theorem keeps_writeControl (s : State) (enable : Bool) : Keeps s (writeControl s enable) := by
  unfold writeControl
  split
  · exact .refl s
  · rename_i hoff
    exact keeps_enterListening hoff
  · exact .refl s
  · rename_i hlistening
    exact keeps_leaveListening hlistening
  · exact .refl s
  · exact keeps_refuseWrite s

/-! ### Resets -/

/-- The notice unit's reset values are sound (R177). -/
theorem noticeSound_reset {s : State} (h : s.notice = NoticeUnit.reset) : NoticeSound s := by
  unfold NoticeSound
  rw [h]
  decide

/-- An engine that does not exist is sound, with nothing in its index (R2, R21). -/
theorem engineSound_reset {s : State} (hdevice : s.mgmt.device ≠ .running) (h : s.epoch = EpochController.reset) :
    EngineSound s := by
  unfold EngineSound
  rw [h]
  simp [hdevice, EpochController.reset, Engine.fenceUp]

/-- The reset values of the four settings are in range, with both timers stopped (R197). -/
theorem settingsInRange_reset {s : State} (hbase : s.mgmt.cwBase.toNat % 4096 = 0) (hhold : s.hold = Hold.reset)
    (hepoch : s.epoch = EpochController.reset) (hjournal : s.journal = Journal.reset) (hnotice : s.notice = NoticeUnit.reset) :
    SettingsInRange s := by
  unfold SettingsInRange
  rw [hhold, hepoch, hjournal, hnotice]
  exact ⟨hbase, by decide, by decide, by decide, by decide, by decide, fun n hn => (by cases hn), fun n hn => by cases hn⟩

theorem captureSound_reset {s : State} (h : s.capture = Capture.reset) : CaptureSound s := by
  unfold CaptureSound
  rw [h]
  refine ⟨by simp [Capture.reset], by simp [Capture.reset], fun i j c d hc => ?_⟩
  simp [Capture.reset] at hc

theorem keeps_retryTrigger (s : State) (i : Fin 8) : Keeps s (retryTrigger s i) := by
  obtain h | ⟨id, h⟩ := retryTrigger_cases s i
  · rw [h]; exact .refl s
  · rw [h]; exact keeps_respond _ _ _ _ _

theorem keeps_retryEntry (s : State) (e : HeldEntry) : Keeps s (retryEntry s e) := keeps_respond _ _ _ _ _

/-- A run of operations that change the U-link alone changes the U-link alone. -/
theorem foldl_ulink_frame {α : Type} {f : State → α → State} (hf : ∀ s a, ∃ u, f s a = { s with ulink := u }) (l : List α)
    (s : State) : ∃ u, l.foldl f s = { s with ulink := u } := by
  induction l generalizing s with
  | nil => exact ⟨s.ulink, rfl⟩
  | cons a l ih =>
    obtain ⟨u, hu⟩ := hf s a
    obtain ⟨v, hv⟩ := ih { s with ulink := u }
    exact ⟨v, by rw [List.foldl_cons, hu, hv]⟩

theorem retryTrigger_frame (s : State) (i : Fin 8) : ∃ u, retryTrigger s i = { s with ulink := u } := by
  obtain h | ⟨id, h⟩ := retryTrigger_cases s i
  · rw [h]; exact ⟨s.ulink, rfl⟩
  · rw [h]; exact ⟨_, respond_frame _ _ _ _ _⟩

theorem retryEntry_frame (s : State) (e : HeldEntry) : ∃ u, retryEntry s e = { s with ulink := u } :=
  ⟨_, respond_frame _ _ _ _ _⟩

/-- A soft reset: the identities in use and the outstanding set lose at most what is answered, and the rest is reset (R191). -/
theorem keeps_softResetBlocks (s : State) : Keeps s (softResetBlocks s) := by
  obtain ⟨v, hv⟩ := foldl_ulink_frame retryTrigger_frame allSlots s
  obtain ⟨u, hu⟩ := foldl_ulink_frame retryEntry_frame s.hold.entries (allSlots.foldl retryTrigger s)
  have hanswers : Keeps s (s.hold.entries.foldl retryEntry (allSlots.foldl retryTrigger s)) :=
    (Keeps.foldl keeps_retryTrigger allSlots s).trans (Keeps.foldl keeps_retryEntry _ _)
  have hdevice : (if s.mgmt.cwEnable then DeviceState.listening else .offline) ≠ .running := by split <;> simp
  unfold softResetBlocks
  rw [hv] at hu hanswers ⊢
  rw [hu] at hanswers ⊢
  refine ⟨fun hcapacity => ?_, fun _ => captureSound_reset rfl, ?_, fun _ => engineSound_reset hdevice rfl,
    fun _ => areasDisjoint_cleared hdevice rfl rfl, fun _ => noticeSound_reset rfl⟩
  · obtain ⟨-, -, -, hout, hids, hframe⟩ := hanswers.capacity hcapacity
    refine ⟨by simp [NoticeUnit.reset], by simp [CommandUnit.reset], by simp [Hold.reset], hout, ?_, hframe⟩
    simp only [DLink.softReset, List.map_map]
    exact hids
  · rintro ⟨hbase, -⟩
    exact settingsInRange_reset hbase rfl rfl rfl rfl

theorem keeps_softReset (s : State) (enable : Bool) : Keeps s (softReset s enable) := by
  unfold softReset
  refine Keeps.trans (t := { s with mgmt.cwEnable := enable }) ⟨id, id, id, id, id, id⟩ ?_
  exact Keeps.ite (fun _ => (keeps_softResetBlocks _).trans (keeps_askStatus _)) fun _ => keeps_softResetBlocks _

/-- Settles O60: the reset value of each block is sound on its own. -/
theorem invariantsHoldAtReset : Obligations.InvariantsHoldAtReset := by
  exact ⟨⟨by decide, by decide, by decide, List.nodup_nil, List.nodup_nil, fun f hf => by cases hf⟩, captureSound_reset rfl,
    settingsInRange_reset (by decide) rfl rfl rfl rfl, engineSound_reset (by decide) rfl, areasDisjoint_cleared (by decide) rfl rfl,
    noticeSound_reset rfl⟩

/-- RESET asserted puts the part at its reset values but for the links' histories and what the sender has waiting (R190). -/
theorem keeps_powerOn (s : State) : Keeps s (powerOn s) := by
  obtain ⟨hcapacity, hcapture, hsettings, hengine, hareas, hnotices⟩ := invariantsHoldAtReset
  exact ⟨fun _ => hcapacity, fun _ => hcapture, fun _ => hsettings, fun _ => hengine, fun _ => hareas, fun _ => hnotices⟩

/-! ### Frames and time -/

/-- A frame in progress takes no bit after its fortieth (R180). -/
theorem keeps_clockBit (s : State) (b : Bool) : Keeps s (clockBit s b) := by
  unfold clockBit
  split
  · exact .refl s
  · rename_i f hf
    refine Keeps.ite (fun _ => ⟨id, id, id, id, id, id⟩) fun hshort => ?_
    have hshift : Keeps s (shiftBit s f b) := by
      unfold shiftBit
      refine Keeps.trans (t := { s with mgmt.frame := some ⟨f.bits ++ [b], captureAt s f (f.bits ++ [b])⟩ }) ?_
        (Keeps.ite (fun _ => ⟨id, id, id, id, id, id⟩) fun _ => .refl _)
      refine ⟨?_, id, id, id, id, id⟩
      rintro ⟨hbuffer, hqueue, hentries, hout, hids, -⟩
      refine ⟨hbuffer, hqueue, hentries, hout, hids, fun g hg => ?_⟩
      cases hg
      simp
      omega
    exact Keeps.ite (fun _ => hshift.trans ⟨id, id, id, id, id, id⟩) fun _ => hshift

theorem keeps_selectFrame (s : State) : Keeps s (selectFrame s) := by
  refine ⟨?_, id, id, id, id, id⟩
  rintro ⟨hbuffer, hqueue, hentries, hout, hids, -⟩
  refine ⟨hbuffer, hqueue, hentries, hout, hids, fun g hg => ?_⟩
  cases hg
  simp

theorem keeps_endFrame (s : State) : Keeps s (endFrame s) := by
  refine ⟨?_, id, id, id, id, id⟩
  rintro ⟨hbuffer, hqueue, hentries, hout, hids, -⟩
  exact ⟨hbuffer, hqueue, hentries, hout, hids, fun g hg => by cases hg⟩

theorem keeps_abandonFrame (s : State) (bits : List Bool) : Keeps s (abandonFrame s bits) :=
  Keeps.ite (fun _ => ((keeps_selectFrame s).trans (Keeps.foldl keeps_clockBit bits _)).trans (keeps_endFrame _)) fun _ => .refl s

theorem keeps_takeSerial (s : State) (e : SerialEvent) : Keeps s (takeSerial s e) := by
  unfold takeSerial
  split
  · exact keeps_selectFrame s
  · exact keeps_clockBit s _
  · exact keeps_endFrame s
  · exact ⟨id, id, id, id, id, id⟩
  · exact ⟨id, id, id, id, id, id⟩
  · exact .refl s

/-- One microsecond: a running timer stays within its full time, and no timer expires ATTN's condition by running down (R13, R175). -/
theorem keeps_tick (s : State) : Keeps s (tick s) := by
  unfold tick
  refine Keeps.ite (fun _ => .refl s) fun _ => ?_
  refine Keeps.trans (t := elapse s) ⟨id, id, ?_, id, id, ?_⟩ ⟨id, id, id, id, id, id⟩
  · rintro ⟨hbase, hlow, hhigh, hq, hlwm, htf, hrun, hfrun⟩
    refine ⟨hbase, hlow, hhigh, hq, hlwm, htf, fun n hn => ?_, fun n hn => ?_⟩
    · change s.epoch.quiet.tick = .running n at hn
      cases hquiet : s.epoch.quiet with
      | stopped => rw [hquiet] at hn; cases hn
      | running m =>
        rw [hquiet] at hn
        cases hn
        obtain ⟨hon, hle⟩ := hrun m hquiet
        exact ⟨hon, (Nat.sub_le m 1).trans hle⟩
    · change s.notice.flush.tick = .running n at hn
      cases hflush : s.notice.flush with
      | stopped => rw [hflush] at hn; cases hn
      | expired => rw [hflush] at hn; cases hn
      | running m =>
        rw [hflush] at hn
        cases hn
        obtain ⟨hon, hle⟩ := hfrun m hflush
        exact ⟨hon, (Nat.sub_le m 1).trans hle⟩
  · rintro ⟨hbuffer, hlost, hsize, hunacked, hroom, hattn⟩
    refine ⟨hbuffer, hlost, hsize, hunacked, hroom, hattn.trans ?_⟩
    have htick : (s.notice.flush.tick == FlushTimer.expired) = (s.notice.flush == .expired) := by
      cases s.notice.flush <;> rfl
    show _ = NoticeUnit.attnCondition { s.notice with flush := s.notice.flush.tick }
    simp only [NoticeUnit.attnCondition, htick]
    rfl

/-! ### Every step -/

/-- What a whole action of the part does keeps every invariant. -/
theorem keeps_effectOf (c : Instr) (s : State) : Keeps s (effectOf c s) := by
  cases c with dsimp only [effectOf]
  | upstreamRequest => exact keeps_takeRequest s _
  | allocationReport => exact keeps_takeAllocReport s
  | upstreamLinkReset => exact keeps_resetUpstream s
  | arbiterIssue => exact keeps_arbitrate s _
  | captureReadsIssue => exact keeps_issueOldReads s _
  | forwardResponse => exact keeps_takeAnswer fun _ _ _ => keeps_takeForwardAnswer
  | oldImageReadAnswer =>
    refine keeps_takeAnswer fun o t u h => ?_
    split at h
    · cases h
      exact keeps_takeOldRead _ _ _ _ _
    · cases h
  | recordWriteAnswer =>
    refine keeps_takeAnswer fun o t u h => ?_
    split at h
    · cases h
      exact keeps_takeRecordWrite _ _ _
    · cases h
  | voidWriteAnswer =>
    refine keeps_takeAnswer fun o t u h => ?_
    split at h
    · cases h
      exact keeps_takeVoidWrite _ _ _
    · cases h
  | triggerResponse =>
    refine keeps_takeAnswer fun o t u h => ?_
    split at h
    · cases h
      exact keeps_takeTriggerResponse _ _ _
    · cases h
  | markerWriteAnswer =>
    refine keeps_takeAnswer fun o t u h => ?_
    split at h
    · cases h
      exact keeps_takeMarkerWrite _ _ _
    · cases h
  | frontierAdvanceReport => exact keeps_takeOldestAdvance s
  | restoreReadAnswer =>
    refine keeps_takeAnswer fun o t u h => ?_
    split at h
    · cases h
      exact keeps_takeRestoreRead _ _ _ _
    · cases h
  | writeBackIssue => exact keeps_issueWriteBacks s
  | writeBackAnswer =>
    refine keeps_takeAnswer fun o t u h => ?_
    split at h
    · cases h
      exact keeps_takeWriteBack _ _
    · cases h
  | walkEnd => exact keeps_takeWalkEnd s
  | restoreFaultTaken => exact keeps_takeRestoreFault s
  | restoreStop => exact keeps_takeRestoreStop s
  | noticeWriteAnswer =>
    refine keeps_takeAnswer fun o t u h => ?_
    split at h
    · cases h
      exact keeps_takeNoticeWrite _ _
    · cases h
  | statusLineAnswer =>
    refine keeps_takeAnswer fun o t u h => ?_
    split at h
    · cases h
      exact keeps_takeStatusLine _ _
    · cases h
  | statusUpdateRequest => exact keeps_takeStatusRequest s
  | dlinkStaleResponse => exact keeps_takeAnswer fun _ _ _ h => nomatch h
  | reevaluationPass => exact keeps_takePass s
  | holdExpiry => exact keeps_takeHoldExpiry s _
  | exhaustionReport => exact keeps_takeExhaustion s
  | quietExpiry => exact keeps_takeQuietExpiry s
  | flushExpiry => exact keeps_takeFlushExpiry s
  | windowSet => exact keeps_takeCommand (fun _ _ hd h => keeps_changeWindowSet hd h) fun _ _ _ _ => .refl _
  | journalSet => exact keeps_takeCommand (fun _ _ _ h => keeps_changeJournalSet h) fun _ _ _ _ => keeps_lowWaterTest _
  | journalClear => exact keeps_takeCommand (fun t l _ h => keeps_changeJournalClear (l := l) h) fun _ _ _ _ => .refl _
  | journalRelease => exact keeps_takeCommand (fun _ _ _ h => keeps_changeJournalRelease h) fun _ _ _ _ => keeps_lowWaterTest _
  | epochCommit =>
    exact keeps_takeCommand
      (fun _ l _ h => (accepted_epochCommit (l := l) h).elim fun hengine hroom => keeps_commit .command hengine hroom)
      fun _ _ _ _ => keeps_lowWaterTest _
  | epochRollback => exact keeps_takeCommand (fun _ _ _ h => keeps_changeEpochRollback h) fun _ _ _ _ => keeps_drainTest _
  | rollbackAbort => exact keeps_takeCommand (fun t l _ _ => keeps_changeRollbackAbort t l) fun _ _ _ _ => .refl _
  | epochResume => exact keeps_takeCommand (fun _ l _ h => keeps_changeEpochResume (l := l) h) fun _ _ _ _ => keeps_lowWaterTest _
  | noticeSet => exact keeps_takeCommand (fun _ _ hd h => keeps_changeNoticeSet hd h) fun _ _ _ _ => .refl _
  | noticeAck => exact keeps_takeCommand (fun _ _ _ h => keeps_changeNoticeAck h) fun _ _ _ _ => .refl _
  | timingSet => exact keeps_takeCommand (fun _ _ _ h => keeps_changeTimingSet h) fun _ _ _ h => keeps_afterTimingSet _ _ h
  | statusSnapshot => exact keeps_takeCommand (fun _ _ _ _ => .refl _) fun _ _ _ _ => .refl _
  | badOpcode => exact keeps_takeCommand (fun _ _ _ _ => .refl _) fun _ _ _ _ => .refl _
  | cwEnable => exact (keeps_writeFrame s).trans (keeps_writeControl _ _)
  | softReset => exact (keeps_writeFrame s).trans (keeps_softReset _ _)
  | cwBaseWrite => exact (keeps_writeFrame s).trans (keeps_writeBase _ _ _)
  | cmdStreamsWrite => exact (keeps_writeFrame s).trans ⟨id, id, id, id, id, id⟩
  | faultWrite => exact (keeps_writeFrame s).trans ⟨id, id, id, id, id, id⟩
  | mgmtWriteRefused => exact Keeps.ite (fun _ => (keeps_writeFrame s).trans (keeps_refuseWrite _)) fun _ => .refl s
  | frameAbandoned => exact keeps_abandonFrame s _
  | powerOnReset => exact keeps_powerOn s
  | resetDeasserted => exact ⟨id, id, id, id, id, id⟩

theorem keeps_exec {c : Instr} {s t : State} (h : exec c s = .next t) : Keeps s t := by
  obtain ⟨-, rfl⟩ | ⟨-, rfl⟩ | ⟨-, ht⟩ | ⟨-, rfl⟩ := exec_cases h
  · exact keeps_powerOn s
  · exact ⟨id, id, id, id, id, id⟩
  · rw [ht]
    exact ⟨id, id, id, id, id, id⟩
  · exact (keeps_effectOf c s).trans (keeps_settle _)

theorem keeps_step {s t : State} (h : step s = .next t) : Keeps s t := by
  obtain ⟨c, rest, -, hexec⟩ | ⟨e, rest, -, -, rfl⟩ | ⟨-, -, rfl⟩ := step_cases h
  · exact Keeps.trans (t := { s with pending := rest }) ⟨id, id, id, id, id, id⟩ (keeps_exec hexec)
  · exact Keeps.trans (t := { s with serial := rest }) ⟨id, id, id, id, id, id⟩ (keeps_takeSerial _ e)
  · exact keeps_tick s

/-- Settles O56, by `keeps_step`. -/
theorem capacitiesAndSettingsAreKept : Obligations.CapacitiesAndSettingsAreKept :=
  fun _ _ ⟨hcapacity, hcapture, hsettings⟩ h =>
    ⟨(keeps_step h).capacity hcapacity, (keeps_step h).capture hcapture, (keeps_step h).settings hsettings⟩

/-- Settles O57, by `keeps_step`. -/
theorem engineStaysSound : Obligations.EngineStaysSound := fun _ _ hs h => (keeps_step h).engine hs

/-- Settles O58, by `keeps_step`. -/
theorem areasStayDisjoint : Obligations.AreasStayDisjoint := fun _ _ hs h => (keeps_step h).areas hs

/-- Settles O59, by `keeps_step`. -/
theorem noticesStaySound : Obligations.NoticesStaySound := fun _ _ hs h => (keeps_step h).notices hs

end Sys2Proof.Machine
end

section
/-! PROOF. Steps, time and power-on reset (O1 to O4). -/

namespace Sys2Proof.Machine

/-! ### One action -/

/-- A command whose effect asks for no status block leaves its effect as the next state. -/
theorem exec_of_effect {c : Instr} {s t : State} (hpower : c ≠ .powerOnReset) (hdeassert : c ≠ .resetDeasserted) (hs : s.atRest)
    (heffect : effectOf c s = t) (hasked : t.status.asked = false) : exec c s = .next t := by
  subst heffect
  exact exec_quiet hpower hdeassert hs.1 hasked

/-- A command leaves its effect at the end of the action. -/
theorem exec_settled {c : Instr} {s t : State} (hpower : c ≠ .powerOnReset) (hdeassert : c ≠ .resetDeasserted) (hs : s.atRest)
    (heffect : effectOf c s = t) : exec c s = .next (settle t) := by
  subst heffect
  exact exec_live hpower hdeassert hs.1

/-- A notice handed over after a change that leaves the notice unit alone. -/
theorem handed_post_of {s t : State} (b : NoticeBody) (hnotice : t.notice = s.notice) (hreport : t.dlink.report = s.dlink.report)
    (htime : t.mgmt.time = s.mgmt.time) (hcurrent : t.epoch.current = s.epoch.current) :
    Handed s (post t b) [(b, s.epoch.current)] := by
  rw [← hcurrent]
  exact (handed_post t b).congr hnotice.symm hreport.symm htime.symm rfl rfl

/-! ### Steps and time -/

/-- Settles O1: it is the definition of a step. -/
theorem stepTakesFrontCommand : Obligations.StepTakesFrontCommand := fun _ _ _ => rfl

/-- A held entry's expiry is due (R92, R93). -/
theorem expiryDue_iff (s : State) (e : HeldEntry) : s.expiryDue e = true ↔
    s.hold.tHold ≤ (s.mgmt.time - e.arrival).toNat ∧ ¬ (e.cause = .journalFull ∧ e.exhausted = true) := by
  simp only [State.expiryDue, State.overdue, State.age, Bool.and_eq_true, Bool.not_eq_true', Bool.and_eq_false_iff,
    beq_eq_false_iff_ne, ne_eq, Bool.not_eq_true, not_and_or]
  exact and_congr_left fun _ => decide_eq_true_iff

/-- The events the timer unit delivers: the expiries of held entries that are due, and those of the two timers that have run out. -/
theorem mem_dueExpiries_iff (s : State) (c : Instr) : c ∈ dueExpiries s ↔
    (∃ e ∈ s.hold.entries, c = .holdExpiry e.request.id ∧ s.expiryDue e = true) ∨
      (c = .quietExpiry ∧ s.epoch.quiet = .running 0) ∨ (c = .flushExpiry ∧ s.notice.flush = .running 0) := by
  have hheld : c ∈ (s.hold.entries.filter (fun e => s.expiryDue e)).map (fun e => Instr.holdExpiry e.request.id) ↔
      ∃ e ∈ s.hold.entries, c = .holdExpiry e.request.id ∧ s.expiryDue e = true := by
    simp only [List.mem_map, List.mem_filter, and_assoc, eq_comm (a := c), and_comm (a := s.expiryDue _ = true)]
  have hquiet : c ∈ (if s.epoch.quiet = .running 0 then [Instr.quietExpiry] else []) ↔
      c = .quietExpiry ∧ s.epoch.quiet = .running 0 := by split <;> simp_all
  have hflush : c ∈ (if s.notice.flush = .running 0 then [Instr.flushExpiry] else []) ↔
      c = .flushExpiry ∧ s.notice.flush = .running 0 := by split <;> simp_all
  rw [dueExpiries, List.mem_append, List.mem_append, hheld, hquiet, hflush, or_assoc]

theorem QuietTimer.tick_eq (q : QuietTimer) :
    q.tick = (match q with | .stopped => .stopped | .running n => .running (n - 1)) := by cases q <;> rfl

theorem FlushTimer.tick_eq (f : FlushTimer) :
    f.tick = (match f with | .stopped => .stopped | .running n => .running (n - 1) | .expired => .expired) := by cases f <;> rfl

/-- Outside RESET one microsecond passes, and the expiries then due are put on the queue. -/
theorem tick_live {s : State} (h : s.resetAsserted = false) :
    tick s = { elapse s with pending := s.pending ++ dueExpiries (elapse s) } := by
  simp [tick, h, elapse]

/-- Settles O2, by `tick_live` and `mem_dueExpiries_iff`. -/
theorem emptyQueueIsOneMicrosecond : Obligations.EmptyQueueIsOneMicrosecond := by
  intro s hpending hserial hlive
  refine ⟨tick s, by simp [step, hpending, hserial], ?_⟩
  rw [tick_live hlive, hpending, List.nil_append]
  refine ⟨rfl, QuietTimer.tick_eq _, FlushTimer.tick_eq _, fun c => ?_⟩
  rw [mem_dueExpiries_iff]
  simp only [expiryDue_iff]
  exact Iff.rfl

/-! ### Power-on reset -/

/-- A step with no command waiting takes the next event on the pins. -/
theorem step_of_serial {s : State} {e : SerialEvent} {rest : List SerialEvent} (hpending : s.pending = [])
    (hserial : s.serial = e :: rest) : step s = .next (takeSerial { s with serial := rest } e) := by
  obtain ⟨t, ht⟩ := step_next s
  obtain ⟨c, l, hcommand, -⟩ | ⟨f, l, -, hevent, rfl⟩ | ⟨-, hnone, -⟩ := step_cases ht
  · rw [hpending] at hcommand; cases hcommand
  · rw [hserial] at hevent; cases hevent; exact ht
  · rw [hserial] at hnone; cases hnone

theorem takeSerial_select_in_reset {s : State} (h : s.resetAsserted = true) :
    takeSerial s .select = { s with mgmt.dout := [] } := by simp [takeSerial, h]

theorem takeSerial_bit_in_reset {s : State} (h : s.resetAsserted = true) (b : Bool) :
    takeSerial s (.bit b) = { s with mgmt.dout := s.mgmt.dout ++ [false] } := by simp [takeSerial, h, drive]

theorem takeSerial_deselect_in_reset {s : State} (h : s.resetAsserted = true) : takeSerial s .deselect = s := by
  unfold takeSerial; rw [h]

/-- Settles O3: one conjunct for each edge of RESET, and one for the part held in it. -/
theorem powerOnResetHoldsThePart : Obligations.PowerOnResetHoldsThePart := by
  intro s
  refine ⟨⟨powerOn s, rfl, rfl, rfl, rfl⟩, ⟨{ s with resetAsserted := false }, rfl, rfl, rfl⟩, fun hreset =>
    ⟨by simp [State.dataOut, hreset], fun c hpower hdeassert => ?_, fun hpending => ⟨fun hserial => ?_, fun e rest hserial => ?_⟩⟩⟩
  · rw [exec_in_reset hpower hdeassert hreset, heldInReset]
    cases frameBits c <;> rfl
  · simp [step, hpending, hserial, tick, hreset]
  · rw [step_of_serial hpending hserial]
    cases e with
    | select => exact congrArg _ (takeSerial_select_in_reset (s := { s with serial := rest }) hreset)
    | bit b => exact congrArg _ (takeSerial_bit_in_reset (s := { s with serial := rest }) hreset b)
    | deselect => exact congrArg _ (takeSerial_deselect_in_reset (s := { s with serial := rest }) hreset)

/-- Settles O4: every reset value is the one the manual gives. -/
theorem resetValues : Obligations.ResetValues := by
  have hwindows (i : Fin 16) : State.reset.windows[i] = ⟨.off, 0, 0, false, false⟩ := Vector.getElem_replicate _
  have hslots (i : Fin 8) : State.reset.capture.slots[i] = none := Vector.getElem_replicate _
  have hhand (k : Fin 5) : State.reset.restore.hand[k] = none := Vector.getElem_replicate _
  unfold Obligations.ResetValues
  simp only [hwindows, hslots, hhand, implies_true, true_and]
  decide

end Sys2Proof.Machine
end

section
/-! PROOF. Upstream requests (O6 to O11): the port's checks (R127, R128), the path of a request (R34 to R40), the command decoder
(R145 to R148) and the capture unit's judgement of an arrival (R41 to R46). -/

namespace Sys2Proof.Machine

/-! ### The port -/

theorem takeRequest_malformed {s : State} {r : Request} (h : formOk r = false) : takeRequest s r = refuseAtPort s r := by
  simp [takeRequest, h]

theorem takeRequest_duplicate {s : State} {r : Request} (h : r.id ∈ s.ulink.outstanding) : takeRequest s r = refuseAtPort s r := by
  simp [takeRequest, h]

/-- Settles O6: the port's two checks come before the path of a request. -/
theorem malformedOrDuplicateIsRefused : Obligations.MalformedOrDuplicateIsRefused := by
  intro s r hs hbad
  have hrefused : takeRequest s r = refuseAtPort s r := by
    rcases hbad with hform | hdup
    · exact takeRequest_malformed (Bool.eq_false_iff.2 fun h => hform ((formOk_iff r).1 h))
    · exact takeRequest_duplicate hdup
  exact exec_of_effect (c := .upstreamRequest r) (by simp) (by simp) hs hrefused hs.2

/-- The state in which a request's path is followed: its identity is outstanding (R128). -/
def State.withRequest (s : State) (r : Request) : State := { s with ulink.outstanding := s.ulink.outstanding ++ [r.id] }

/-- A well-formed request with a fresh identity follows its path. -/
theorem effectOf_upstreamRequest {s : State} {r : Request} {p : Path} (h1 : 1 ≤ r.length) (h2 : r.length ≤ 64)
    (h3 : r.addr.toNat % 64 + r.length ≤ 64) (hfresh : r.id ∉ s.ulink.outstanding) (hpath : classify s r = p) :
    effectOf (.upstreamRequest r) s = followPath (s.withRequest r) r p := by
  subst hpath
  exact takeRequest_fresh ((formOk_iff r).2 ⟨h1, h2, h3⟩) hfresh

/-- A request that is answered at once leaves the outstanding set as it was. -/
theorem respond_withRequest {s : State} {r : Request} (hfresh : r.id ∉ s.ulink.outstanding) (k : ReqKind) (st : Status)
    (d : List Byte) : respond (s.withRequest r) k r.id st d =
      { s with ulink.returned := s.ulink.returned ++ [⟨k, r.id, st, d⟩] } := by
  rw [respond_of_mem (by simp [State.withRequest])]
  simp only [State.withRequest]
  rw [filter_append_self hfresh]

/-! ### Paths -/

/-- A write in a GUARD window is a hit (R40). -/
theorem windowPath_guard {s : State} {r : Request} {w : Fin 16} (hmode : s.windows[w].mode = .guard) (hkind : r.kind = .write) :
    windowPath s r.kind w = .guardHit w := by
  unfold windowPath
  rw [hmode, hkind]

/-- A request in a JOURNAL window while RUNNING is the capture unit's (R34, R41). -/
theorem windowPath_journal {s : State} {r : Request} {w : Fin 16} (hmode : s.windows[w].mode = .journal)
    (hdevice : s.mgmt.device = .running) : windowPath s r.kind w = .journaled w := by
  unfold windowPath
  rw [hmode]
  simp [hdevice]

/-- A read in a window of another mode than JOURNAL is forwarded (R35). -/
theorem windowPath_read {s : State} {r : Request} {w : Fin 16} (hkind : r.kind = .read) (hmode : s.windows[w].mode ≠ .journal) :
    windowPath s r.kind w = .forward := by
  unfold windowPath
  rw [hkind]
  cases h : s.windows[w].mode with
  | journal => exact absurd h hmode
  | guard => rfl
  | off => rfl

/-- A read is forwarded unless a JOURNAL window holds its address (R34, R35). -/
theorem classify_read {s : State} {r : Request} (hkind : r.kind = .read)
    (hwindows : ∀ w : Fin 16, s.windows[w].mode = .journal → holdsOpt s.windows[w].area? r.addr = false) :
    classify s r = .forward := by
  have hcommand : commandPath s r = .forward := by simp only [commandPath, hkind]
  have hprotected : protectedPath r.kind = .forward := by rw [hkind]; rfl
  unfold classify
  rw [hcommand, hprotected]
  cases hw : windowAt s.windows r.addr with
  | none => simp only [ite_self]
  | some w =>
    have hwindow : windowPath s r.kind w = .forward := by
      refine windowPath_read hkind fun hmode => ?_
      exact absurd ((hwindows w hmode).symm.trans (windowAt_some hw)) (by decide)
    simp only [hwindow, ite_self]

/-- A request that falls in no area is forwarded (R34, R35). -/
theorem classify_outside {s : State} {r : Request} (hnotice : touches r s.noticeArea? = false)
    (hwindows : ∀ w : Fin 16, holdsOpt s.windows[w].area? r.addr = false) (hcommand : holdsOpt s.commandArea? r.addr = false)
    (hjournal : holdsOpt s.journalArea? r.addr = false) : classify s r = .forward := by
  simp [classify, hnotice, windowAt_none_iff.2 hwindows, hcommand, hjournal]

/-- Settles O7: in each of the three cases the path is that of a forwarded request. -/
theorem requestOutsideTheAreasIsForwarded : Obligations.RequestOutsideTheAreasIsForwarded := by
  intro s r hs h1 h2 h3 hfresh hcase
  have hpath : classify s r = .forward := by
    rcases hcase with hoff | ⟨hkind, hwindows⟩ | ⟨hnotice, hwindows, hcommand, hjournal⟩
    · exact classify_offline hoff r
    · exact classify_read hkind hwindows
    · exact classify_outside hnotice hwindows hcommand hjournal
  exact exec_of_effect (c := .upstreamRequest r) (by simp) (by simp) hs (effectOf_upstreamRequest h1 h2 h3 hfresh hpath) hs.2

/-- A write that touches the notice area is refused (R34, R38). -/
theorem classify_notice {s : State} {r : Request} (hdevice : s.mgmt.device ≠ .offline) (hkind : r.kind = .write)
    (hnotice : touches r s.noticeArea? = true) : classify s r = .refuse := by
  simp [classify, hdevice, hnotice, hkind, protectedPath]

/-- The path of a write in the command window: a command up to line 59, and refused in the status block (R37, R39). -/
theorem commandPath_write {s : State} {r : Request} (hkind : r.kind = .write) : commandPath s r =
    if (r.addr.toNat - s.mgmt.cwBase.toNat) / 64 ≤ 59 then .command ((r.addr.toNat - s.mgmt.cwBase.toNat) / 64) else .refuse := by
  simp [commandPath, hkind]

/-- A write to the notice area, the status block or the journal area is refused (R38, R39). -/
theorem classify_protected {s : State} {r : Request} (hd : AreasDisjoint s) (hdevice : s.mgmt.device ≠ .offline)
    (hkind : r.kind = .write) (harea : touches r s.noticeArea? = true ∨
      (holdsOpt s.commandArea? r.addr = true ∧ 60 ≤ (r.addr.toNat - s.mgmt.cwBase.toNat) / 64) ∨
      holdsOpt s.journalArea? r.addr = true) : classify s r = .refuse := by
  by_cases hnotice : touches r s.noticeArea? = true
  · exact classify_notice hdevice hkind hnotice
  · have hapart := Bool.eq_false_iff.2 hnotice
    rcases harea with h | ⟨hcommand, hline⟩ | hjournal
    · exact absurd h hnotice
    · rw [classify_command hd hapart hcommand, commandPath_write hkind, if_neg (by omega)]
    · rw [classify_journal hd hapart hjournal, hkind]
      rfl

/-- Settles O8: the three protected areas have one path, and a GUARD window has that of a hit. -/
theorem protectedWriteIsRefused : Obligations.ProtectedWriteIsRefused := by
  intro s r hs hd h1 h2 h3 hfresh hdevice hkind refused
  have hrefused : respond (s.withRequest r) r.kind r.id .refused [] = refused := by
    rw [respond_withRequest hfresh, hkind]
  refine ⟨fun harea => ?_, fun w hnotice hmode hholds => ?_⟩
  · have heffect := effectOf_upstreamRequest h1 h2 h3 hfresh (classify_protected hd hdevice hkind harea)
    exact exec_of_effect (c := .upstreamRequest r) (by simp) (by simp) hs (heffect.trans hrefused) hs.2
  · have hpath : classify s r = .guardHit w := by
      rw [classify_window hd hdevice hnotice hholds, windowPath_guard hmode hkind]
    have heffect := effectOf_upstreamRequest h1 h2 h3 hfresh hpath
    simp only [followPath, hrefused] at heffect
    have hwindows : (s.withRequest r).windows = s.windows := rfl
    rw [hwindows] at heffect
    refine ⟨_, exec_of_effect (c := .upstreamRequest r) (by simp) (by simp) hs heffect ?_, ?_⟩
    · split
      · rw [post_status]; exact hs.2
      · exact hs.2
    · split
      · exact ⟨post_frame _ _, handed_post_of (t := refused) _ rfl rfl rfl rfl⟩
      · exact ⟨rfl, Handed.of_eq rfl rfl⟩

/-! ### The command decoder -/

/-- A write of a whole line with every byte enabled (R145 step 2). -/
theorem wholeLine_iff (r : Request) : wholeLine r = true ↔ r.length = 64 ∧ ∀ b ∈ r.mask, b = true := by
  simp [wholeLine]

/-- The decoder changes the command queue, the notice unit and the REPORT class alone (R145 to R148). -/
theorem offer_frame (s : State) (r : Request) (line : Nat) : offer s r line =
    { s with cmd.queue := (offer s r line).cmd.queue, notice := (offer s r line).notice,
             dlink.report := (offer s r line).dlink.report } := by
  unfold offer
  simp only
  split_ifs
  · rw [post_frame]
  · rw [post_frame]
  · rw [post_frame]
  · rw [post_frame]
  · rfl

theorem offer_foreign {s : State} {r : Request} (line : Nat) (h : s.streamPermitted r.id.stream = false) :
    offer s r line = post s (.foreignCommand r.id.stream line) := by simp [offer, h]

theorem offer_malformed {s : State} {r : Request} (line : Nat) (hstream : s.streamPermitted r.id.stream = true)
    (h : wholeLine r = false ∨ markerOk (lineOfBytes r.data) = false) :
    offer s r line = post s (.commandDropped .malformed r.id.stream line none) := by
  rcases h with h | h <;> simp [offer, hstream, h]

theorem offer_full {s : State} {r : Request} (line : Nat) (hstream : s.streamPermitted r.id.stream = true)
    (hwhole : wholeLine r = true) (hmarker : markerOk (lineOfBytes r.data) = true) (hfull : 8 ≤ s.cmd.queue.length) :
    offer s r line = post s (.commandDropped .queueFull r.id.stream line
      (some (lineTag (lineOfBytes r.data), lineOpcode (lineOfBytes r.data)))) := by
  simp [offer, hstream, hwhole, hmarker, hfull, Config.commandCapacity]

theorem offer_queued {s : State} {r : Request} (line : Nat) (hstream : s.streamPermitted r.id.stream = true)
    (hwhole : wholeLine r = true) (hmarker : markerOk (lineOfBytes r.data) = true) (hroom : s.cmd.queue.length < 8) :
    offer s r line = { s with cmd.queue := s.cmd.queue ++
      [⟨r.id.stream, line, lineOpcode (lineOfBytes r.data), lineTag (lineOfBytes r.data), lineOfBytes r.data⟩] } := by
  simp [offer, hstream, hwhole, hmarker, Nat.not_le.2 hroom, Config.commandCapacity]

theorem markerOk_iff (l : Line) : markerOk l = true ↔ fieldAt l 0 2 = 0x7C1E := by simp [markerOk, Config.formatMarker]

/-- Settles O9: the write is forwarded, and the decoder's five checks are those of `offer`. -/
theorem commandLineWriteIsForwardedAndOffered : Obligations.CommandLineWriteIsForwardedAndOffered := by
  intro s r hs hd h1 h2 h3 hfresh hkind hnotice hcommand hline line l permitted whole queued
  have hpath : classify s r = .command line := by
    rw [classify_command hd hnotice hcommand, commandPath_write hkind, if_pos hline]
  have heffect := effectOf_upstreamRequest h1 h2 h3 hfresh hpath
  generalize hu : forwardRequest (s.withRequest r) r false = u
  have hforwarded : u = { s with
      ulink.outstanding := s.ulink.outstanding ++ [r.id]
      dlink.forward := s.dlink.forward ++ [⟨.write, r.addr, r.length, r.data, r.mask, .forwarded r.id .write false false⟩] } := by
    rw [← hu, ← hkind]
    rfl
  have hoffered : effectOf (.upstreamRequest r) s = offer u r line := by rw [heffect, followPath, hu]
  clear_value line
  have hqueue : u.cmd.queue = s.cmd.queue := by rw [hforwarded]
  have hstream : u.streamPermitted r.id.stream = true ↔ permitted := by rw [hforwarded]; exact Iff.rfl
  have hposted (b : NoticeBody) : Handed s (post u b) [(b, s.epoch.current)] :=
    handed_post_of b (by rw [hforwarded]) (by rw [hforwarded]) (by rw [hforwarded]) (by rw [hforwarded])
  have hkept (b : NoticeBody) : (post u b).cmd.queue = s.cmd.queue := by rw [post_cmd, hqueue]
  refine ⟨offer u r line, exec_of_effect (c := .upstreamRequest r) (by simp) (by simp) hs hoffered ?_, ?_, fun hforeign => ?_,
    fun hpermitted hbad => ?_, fun hpermitted hwhole hmarker hfull => ?_, fun hpermitted hwhole hmarker hroom => ?_⟩
  · rw [offer_frame, hforwarded]; exact hs.2
  · rw [offer_frame]
    generalize (offer u r line).notice = n, (offer u r line).cmd.queue = q, (offer u r line).dlink.report = p
    rw [hforwarded]
  · rw [offer_foreign line (Bool.eq_false_iff.2 fun h => hforeign (hstream.1 h))]
    exact ⟨hkept _, hposted _⟩
  · have hcheck : wholeLine r = false ∨ markerOk l = false := by
      rw [← Bool.not_eq_true, ← Bool.not_eq_true, ← not_and_or, wholeLine_iff, markerOk_iff]
      exact hbad
    rw [offer_malformed line (hstream.2 hpermitted) hcheck]
    exact ⟨hkept _, hposted _⟩
  · rw [offer_full line (hstream.2 hpermitted) ((wholeLine_iff r).2 hwhole) ((markerOk_iff l).2 hmarker) (hqueue ▸ hfull)]
    exact ⟨hkept _, hposted _⟩
  · rw [offer_queued line (hstream.2 hpermitted) ((wholeLine_iff r).2 hwhole) ((markerOk_iff l).2 hmarker) (hqueue ▸ hroom), hforwarded]
    exact ⟨rfl, Handed.of_eq rfl rfl⟩

/-! ### Arrivals in a JOURNAL window -/

/-- The quiet timer after a request of a JOURNAL window (R13). -/
def quietAfter (s : State) (r : Request) (w : Fin 16) : QuietTimer :=
  if r.kind = .write ∧ s.windows[w].quietReload = true ∧ s.epoch.tQuiet ≠ 0 then .running (s.epoch.tQuiet * 1000) else s.epoch.quiet

/-- The state in which the capture unit judges an arrival: its identity is outstanding, and the quiet timer is restarted (R13, R128). -/
def State.withArrival (s : State) (r : Request) (w : Fin 16) : State := { s.withRequest r with epoch.quiet := quietAfter s r w }

theorem takeJournaled_withRequest (s : State) (r : Request) (w : Fin 16) :
    takeJournaled (s.withRequest r) r w = takeArrival (s.withArrival r w) r w := by
  have h : (if r.kind = .write ∧ (s.withRequest r).windows[w].quietReload = true then restartQuiet (s.withRequest r)
      else s.withRequest r) = s.withArrival r w := by
    unfold restartQuiet State.withArrival quietAfter quietFull
    by_cases hwrite : r.kind = .write ∧ s.windows[w].quietReload = true
    · rw [if_pos (by exact hwrite)]
      by_cases hoff : s.epoch.tQuiet = 0
      · rw [if_pos (by exact hoff), if_neg fun h => h.2.2 hoff]
        rfl
      · rw [if_neg (by exact hoff), if_pos ⟨hwrite.1, hwrite.2, hoff⟩]
        rfl
    · rw [if_neg (by exact hwrite), if_neg fun h => hwrite ⟨h.1, h.2.1⟩]
      rfl
  rw [takeJournaled, h]

/-- A request of a JOURNAL window while RUNNING is judged by the capture unit (R34, R41). -/
theorem effectOf_journaled {s : State} {r : Request} {w : Fin 16} (hd : AreasDisjoint s) (h1 : 1 ≤ r.length) (h2 : r.length ≤ 64)
    (h3 : r.addr.toNat % 64 + r.length ≤ 64) (hfresh : r.id ∉ s.ulink.outstanding) (hdevice : s.mgmt.device = .running)
    (hnotice : touches r s.noticeArea? = false) (hmode : s.windows[w].mode = .journal)
    (hholds : holdsOpt s.windows[w].area? r.addr = true) :
    effectOf (.upstreamRequest r) s = takeArrival (s.withArrival r w) r w := by
  have hpath : classify s r = .journaled w := by
    rw [classify_window hd (by simp [hdevice]) hnotice hholds, windowPath_journal hmode hdevice]
  rw [effectOf_upstreamRequest h1 h2 h3 hfresh hpath, followPath, takeJournaled_withRequest]

/-- With the fence up an arrival is held (R41). -/
theorem judgeArrival_fence {s : State} {r : Request} (h : s.epoch.engine.fenceUp = true) : judgeArrival s r = .hold .fence := by
  simp [judgeArrival, h]

/-- With the fence down an arrival is judged by R42 to R44. -/
theorem judgeArrival_open {s : State} {r : Request} (h : s.epoch.engine.fenceUp = false) :
    judgeArrival s r = judgeOpen s r (s.hold.holdsGranule (granuleOf r.addr)) := by simp [judgeArrival, h]

/-- A request of a granule that is being captured or held is held behind it (R42 to R44). -/
theorem judgeOpen_order {s : State} {r : Request} {older : Bool} (h : (s.capture.holdsGranule (granuleOf r.addr) || older) = true) :
    judgeOpen s r older = .hold .order := by simp only [judgeOpen, if_pos h]

/-- A read, a write outside CAPTURING and a write of a captured granule are forwarded (R42 to R44). -/
theorem judgeOpen_forward {s : State} {r : Request} {older : Bool}
    (h : (s.capture.holdsGranule (granuleOf r.addr) || older) = false)
    (hgo : r.kind = .read ∨ s.epoch.engine ≠ .capturing ∨ granuleOf r.addr ∈ s.capture.table) :
    judgeOpen s r older = .forward := by
  unfold judgeOpen
  simp only [h]
  cases hkind : r.kind with
  | read => rfl
  | write =>
    rcases hgo with hread | hengine | htable
    · rw [hkind] at hread; cases hread
    · simp [hengine]
    · simp [htable]

/-- A write that misses in CAPTURING is given a capture slot, or is held for want of one or of a journal slot (R42). -/
theorem judgeOpen_miss {s : State} {r : Request} {older : Bool} (h : (s.capture.holdsGranule (granuleOf r.addr) || older) = false)
    (hkind : r.kind = .write) (hengine : s.epoch.engine = .capturing) (hmiss : granuleOf r.addr ∉ s.capture.table) :
    judgeOpen s r older = (match s.capture.freeSlot? with
      | none => .hold .slotWait
      | some i => if s.journal.free = 0 then .hold .journalFull else .allocate i) := by
  unfold judgeOpen
  simp only [h, hkind, hengine, hmiss]
  rfl

/-- A held arrival: at the newest end of the hold queue, or answered RETRY when it is full (R46, R87). -/
theorem holdRequest_withArrival {s : State} {r : Request} {w : Fin 16} (hfresh : r.id ∉ s.ulink.outstanding) (cause : HoldCause) :
    holdRequest (s.withArrival r w) r w cause =
      if s.hold.entries.length < 32 then
        { s with ulink.outstanding := s.ulink.outstanding ++ [r.id], epoch.quiet := quietAfter s r w,
                 hold.entries := s.hold.entries ++ [⟨r, w, cause, s.mgmt.time, false⟩] }
      else
        { s with ulink.returned := s.ulink.returned ++ [⟨r.kind, r.id, .retry, []⟩], epoch.quiet := quietAfter s r w } := by
  unfold holdRequest
  refine ite_congr rfl (fun _ => rfl) fun _ => ?_
  exact respond_withRequest (s := { s with epoch.quiet := quietAfter s r w }) hfresh _ _ _

/-- The granule of a request is being captured or held (R42 to R44). -/
theorem ordered_iff (s : State) (g : Granule) : (s.capture.holdsGranule g || s.hold.holdsGranule g) = true ↔
    (∃ (i : Fin 8) (c : CaptureSlot), s.capture.slots[i] = some c ∧ c.granule = g) ∨
      ∃ e ∈ s.hold.entries, granuleOf e.request.addr = g := by
  rw [Bool.or_eq_true, holdsGranule_iff, Hold.holdsGranule_iff]

theorem fenceUp_iff (e : Engine) : e.fenceUp = true ↔
    e = .draining ∨ e = .restoring ∨ e = .broken .restoreFault ∨ e = .broken .aborted := by
  cases e with
  | broken c => cases c <;> simp [Engine.fenceUp]
  | _ => simp [Engine.fenceUp]

/-- Settles O10: the checks are those of `judgeArrival`, in its order. -/
theorem journaledRequestIsHeldOrForwarded : Obligations.JournaledRequestIsHeldOrForwarded := by
  intro s r w hs hd h1 h2 h3 hfresh hdevice hnotice hmode hholds g fenced uncaptured capturing ordered quiet held forwarded
  have heffect := effectOf_journaled hd h1 h2 h3 hfresh hdevice hnotice hmode hholds
  have hordered : ((s.withArrival r w).capture.holdsGranule g || (s.withArrival r w).hold.holdsGranule g) = true ↔ ordered :=
    ordered_iff s g
  have hdown (hengine : capturing ∨ uncaptured) : (s.withArrival r w).epoch.engine.fenceUp = false := by
    show s.epoch.engine.fenceUp = false
    rcases hengine with h | h | h <;> rw [h] <;> rfl
  have hhold (cause : HoldCause) (hjudge : judgeArrival (s.withArrival r w) r = .hold cause) :
      exec (.upstreamRequest r) s = .next (held cause) := by
    refine exec_of_effect (c := .upstreamRequest r) (by simp) (by simp) hs (heffect.trans ?_) ?_
    · rw [takeArrival, hjudge]
      exact holdRequest_withArrival hfresh cause
    · simp only [held]
      split <;> exact hs.2
  have hmiss (hengine : capturing) (hclear : ¬ ordered) (hkind : r.kind = .write) (htable : g ∉ s.capture.table) :=
    (judgeArrival_open (r := r) (hdown (.inl hengine))).trans
      (judgeOpen_miss (Bool.eq_false_iff.2 (mt hordered.1 hclear)) hkind hengine htable)
  refine ⟨fun hfenced => hhold _ (judgeArrival_fence ((fenceUp_iff _).2 hfenced)), fun hengine hord => ?_,
    fun hengine hclear hgo => ?_, fun hengine hclear hkind htable hbusy => ?_, fun hengine hclear hkind htable hfree hfull => ?_⟩
  · exact hhold _ ((judgeArrival_open (hdown hengine)).trans (judgeOpen_order (hordered.2 hord)))
  · have hjudge : judgeArrival (s.withArrival r w) r = .forward := by
      refine (judgeArrival_open (hdown hengine)).trans (judgeOpen_forward (Bool.eq_false_iff.2 (mt hordered.1 hclear)) ?_)
      refine hgo.imp_right (Or.imp_left ?_)
      show uncaptured → s.epoch.engine ≠ .capturing
      rintro (h | h) <;> simp [h]
    exact exec_of_effect (c := .upstreamRequest r) (by simp) (by simp) hs (heffect.trans (by rw [takeArrival, hjudge]; rfl)) hs.2
  · refine hhold _ ((hmiss hengine hclear hkind htable).trans ?_)
    have hnone : (s.withArrival r w).capture.freeSlot? = none := freeSlot?_none_iff.2 hbusy
    rw [hnone]
  · obtain ⟨i, hi⟩ := hfree
    refine hhold _ ((hmiss hengine hclear hkind htable).trans ?_)
    cases hslot : (s.withArrival r w).capture.freeSlot? with
    | none => exact absurd hi (freeSlot?_none_iff.1 hslot i)
    | some j => exact if_pos ((free_eq_zero_iff _).2 (le_of_eq hfull.symm))

/-- Settles O11: the capture unit's judgement of the arrival is an allocation, and `allocate_allocated` says what that does. -/
theorem journaledWriteIsGivenACaptureSlot : Obligations.JournaledWriteIsGivenACaptureSlot := by
  intro s r w hs hd h1 h2 h3 hfresh hdevice hnotice hmode hholds hengine hkind hslots hentries htable hfree hroom
  have heffect := effectOf_journaled hd h1 h2 h3 hfresh hdevice hnotice hmode hholds
  have hclear : ((s.withArrival r w).capture.holdsGranule (granuleOf r.addr) ||
      (s.withArrival r w).hold.holdsGranule (granuleOf r.addr)) = false := by
    refine Bool.eq_false_iff.2 (mt (ordered_iff s _).1 ?_)
    rintro (⟨i, c, hc, hg⟩ | ⟨e, he, hg⟩)
    · exact hslots i c hc hg
    · exact hentries e he hg
  have hjudge := (judgeArrival_open (s := s.withArrival r w) (r := r) (by show s.epoch.engine.fenceUp = false; rw [hengine]; rfl)).trans
    (judgeOpen_miss hclear hkind hengine htable)
  have hcapture : (s.withArrival r w).capture = s.capture := rfl
  rw [hcapture] at hjudge
  cases hslot : s.capture.freeSlot? with
  | none =>
    obtain ⟨i, hi⟩ := hfree
    exact absurd hi (freeSlot?_none_iff.1 hslot i)
  | some i =>
    have hnonzero : (s.withArrival r w).journal.free ≠ 0 := mt (free_eq_zero_iff _).1 (Nat.not_le.2 hroom)
    simp only [hslot, if_neg hnonzero] at hjudge
    have hallocate : effectOf (.upstreamRequest r) s = allocate (s.withArrival r w) r w i := by
      rw [heffect, takeArrival, hjudge]
    refine ⟨_, exec_of_effect (c := .upstreamRequest r) (by simp) (by simp) hs hallocate ?_, ?_⟩
    · rw [allocate_frame]; exact hs.2
    · have hallocated := allocate_allocated (s := s.withArrival r w) (r := r) (w := w) (freeSlot?_some hslot)
      have hquiet : s.withArrival r w = { s with
          ulink.outstanding := s.ulink.outstanding ++ [r.id]
          epoch.quiet := (if s.windows[w].quietReload = true ∧ s.epoch.tQuiet ≠ 0
            then .running (s.epoch.tQuiet * 1000) else s.epoch.quiet) } := by
        simp [State.withArrival, State.withRequest, quietAfter, hkind]
      rwa [hquiet] at hallocated ⊢

end Sys2Proof.Machine
end

section
/-! PROOF. The links (O12 to O14): the upstream link reset (R139, R140), the arbiter (R137) and the answers to forwarded requests
(R134). -/

namespace Sys2Proof.Machine

/-! ### The upstream link reset -/

theorem mapSlots_getElem (f : Option CaptureSlot → Option CaptureSlot) (v : Vector (Option CaptureSlot) 8) (i : Fin 8) :
    (mapSlots f v)[i] = f v[i] := by simp [mapSlots]

/-- Settles O12: `Origin.drop` marks forwarded requests alone. -/
theorem upstreamLinkResetDropsRequests : Obligations.UpstreamLinkResetDropsRequests := by
  intro s hs dropped
  have hdrop : dropped = Origin.drop := by
    funext o
    cases o <;> rfl
  rw [hdrop]
  refine ⟨resetUpstream s, exec_of_effect (c := .upstreamLinkReset) (by simp) (by simp) hs rfl hs.2, rfl, fun i => ?_⟩
  exact mapSlots_getElem _ _ i

/-! ### The arbiter -/

/-- The class `n + 1` places after the one served last (R137). -/
def DLink.after (d : DLink) (n : Nat) : TrafficClass := Nat.repeat TrafficClass.next (n + 1) d.lastServed

theorem afterClass_eq (d : DLink) : afterClass d.lastServed = (List.range 4).map d.after := by
  unfold DLink.after
  cases d.lastServed <;> rfl

/-- The class the arbiter chooses is the first, in cyclic order, that holds a request (R137). -/
theorem choose_eq_some {d : DLink} {n : Nat} (hn : n < 4) (hempty : ∀ m < n, d.queue (d.after m) = [])
    (hready : d.queue (d.after n) ≠ []) : d.choose = some (d.after n) := by
  have hfirst : (List.range 4).find? ((fun c => !(d.queue c).isEmpty) ∘ d.after) = some n := by
    rw [List.find?_range_eq_some]
    exact ⟨by simpa using hready, List.mem_range.2 hn, fun m hm => by simp [hempty m hm]⟩
  rw [DLink.choose, afterClass_eq, List.find?_map, hfirst]
  rfl

theorem choose_eq_none {d : DLink} (h : ∀ c, d.queue c = []) : d.choose = none := by
  rw [DLink.choose, List.find?_eq_none]
  intro c _
  simp [h c]

theorem exists_identOfNat (id : Ident) : ∃ n < 16384, identOfNat n = id := by
  obtain ⟨stream, tag⟩ := id
  have hs := stream.isLt
  have ht := tag.isLt
  refine ⟨stream.toNat * 256 + tag.toNat, by omega, ?_⟩
  have hstream : (stream.toNat * 256 + tag.toNat) / 256 = stream.toNat := by omega
  have htag : BitVec.ofNat 8 (stream.toNat * 256 + tag.toNat) = tag := by
    apply BitVec.eq_of_toNat_eq
    rw [BitVec.toNat_ofNat]
    omega
  simp [identOfNat, hstream, htag]

/-- With an identity free the arbiter has one to take, the one wanted if it can (R132). -/
theorem exists_pick {d : DLink} (want : Ident) (h : ∃ id, d.isFree id = true) :
    ∃ id, d.pick want = some id ∧ (d.isFree want = true → id = want) := by
  unfold DLink.pick
  by_cases hwant : d.isFree want = true
  · exact ⟨want, by rw [if_pos hwant], fun _ => rfl⟩
  · rw [if_neg hwant]
    obtain ⟨id, hid⟩ := h
    obtain ⟨n, hn, rfl⟩ := exists_identOfNat id
    obtain ⟨m, hm⟩ := Option.isSome_iff_exists.1
      (List.find?_isSome (p := fun n => d.isFree (identOfNat n)).2 ⟨n, List.mem_range.2 hn, hid⟩)
    exact ⟨identOfNat m, by rw [hm]; rfl, fun h => absurd h hwant⟩

theorem pick_eq_none {d : DLink} (want : Ident) (h : ∀ id, d.isFree id = false) : d.pick want = none := by
  simp [DLink.pick, h]

theorem popClass_queue_self (d : DLink) (c : TrafficClass) : (d.popClass c).queue c = (d.queue c).drop 1 := by cases c <;> rfl

theorem popClass_queue_other (d : DLink) {c k : TrafficClass} (h : k ≠ c) : (d.popClass c).queue k = d.queue k := by
  cases c <;> cases k <;> simp [DLink.popClass, DLink.queue] at h ⊢

theorem issue_queue (d : DLink) (c k : TrafficClass) (q : DRequest) (id : Ident) : (d.issue c q id).queue k = (d.popClass c).queue k := by
  cases k <;> rfl

/-- The arbiter does nothing when no request is ready or no identity is free (R132, R137). -/
theorem arbitrate_idle {s : State} (want : Ident) (h : s.dlink.choose = none ∨ s.dlink.pick want = none) : arbitrate s want = s := by
  unfold arbitrate
  rcases h with h | h
  · rw [h]
  · rw [h]
    split
    · rfl
    · simp

theorem arbitrate_issue {s : State} {want id : Ident} {c : TrafficClass} {q : DRequest} {rest : List DRequest}
    (hchoose : s.dlink.choose = some c) (hqueue : s.dlink.queue c = q :: rest) (hpick : s.dlink.pick want = some id) :
    arbitrate s want = { s with dlink := s.dlink.issue c q id } := by
  simp [arbitrate, hchoose, hqueue, hpick]

/-- Settles O13: the class is the one `choose` finds, and the identity the one `pick` takes. -/
theorem arbiterIssuesInCyclicOrder : Obligations.ArbiterIssuesInCyclicOrder := by
  intro s want hs after free
  have hafter : after = s.dlink.after := rfl
  clear_value after
  subst hafter
  refine ⟨fun hidle => ?_, fun n q rest hn hempty hready hfree => ?_⟩
  · refine exec_of_effect (c := .arbiterIssue want) (by simp) (by simp) hs (arbitrate_idle want ?_) hs.2
    refine hidle.imp choose_eq_none fun h => pick_eq_none want fun id => ?_
    exact Bool.eq_false_iff.2 (mt (isFree_iff s.dlink id).1 (h id))
  · obtain ⟨i, hi⟩ := hfree
    obtain ⟨id, hpick, hwant⟩ := exists_pick want ⟨i, (isFree_iff s.dlink i).2 hi⟩
    have hchoose := choose_eq_some hn hempty (by rw [hready]; simp)
    refine ⟨_, id, exec_of_effect (c := .arbiterIssue want) (by simp) (by simp) hs (arbitrate_issue hchoose hready hpick) hs.2,
      (isFree_iff s.dlink id).1 (pick_free hpick), fun h => hwant ((isFree_iff s.dlink want).2 h), rfl, ?_, fun c hc => ?_, rfl, rfl, rfl⟩
    · rw [issue_queue, popClass_queue_self, hready]
      rfl
    · rw [issue_queue, popClass_queue_other _ hc]

/-! ### Answers to forwarded requests -/

theorem originOf_none_of_unused {d : DLink} {id : Ident} (h : ∀ u ∈ d.inUse, u.id ≠ id) : d.originOf id = none := by
  rw [DLink.originOf, Option.map_eq_none_iff, List.find?_eq_none]
  intro u hu
  simpa using h u hu

theorem mapStatus_eq (st : DStatus) : mapStatus st = if st = .ok then .ok else .memError := by cases st <;> rfl

theorem responseData_eq (kind : ReqKind) (st : DStatus) (data : List Byte) :
    responseData kind st data = if kind = .read ∧ st = .ok then data else [] := by cases kind <;> cases st <;> rfl

/-- The answer to a forwarded request (R134, R139). -/
theorem effectOf_forwardResponse {s : State} {id up : Ident} {kind : ReqKind} {dropped byCapture : Bool} (st : DStatus)
    (data : List Byte) (h : s.dlink.originOf id = some (.forwarded up kind dropped byCapture)) :
    effectOf (.forwardResponse id st data) s = if dropped then freeIdent s id
      else respond (freeIdent s id) kind up (mapStatus st) (responseData kind st data) :=
  takeAnswer_eq h (by simp) rfl

/-- Settles O14: `effectOf_forwardResponse`, and the two answers that find no work. -/
theorem forwardedRequestIsAnswered : Obligations.ForwardedRequestIsAnswered := by
  intro s id st data hs freed
  refine ⟨fun up kind dropped byCapture horigin hout => ?_, fun hunused => ?_, fun horigin line c hc => ?_⟩
  · have heffect := effectOf_forwardResponse st data horigin
    cases dropped with
    | true => exact exec_of_effect (c := .forwardResponse id st data) (by simp) (by simp) hs heffect hs.2
    | false =>
      have hout : up ∈ (freeIdent s id).ulink.outstanding := hout rfl
      simp only [Bool.false_eq_true, if_false] at heffect
      rw [respond_of_mem hout, mapStatus_eq, responseData_eq] at heffect
      exact exec_of_effect (c := .forwardResponse id st data) (by simp) (by simp) hs heffect hs.2
  · have heffect : effectOf (.dlinkStaleResponse id st data) s = s := by
      simp only [effectOf, takeAnswer_unused (originOf_none_of_unused hunused)]
    exact exec_of_effect (by simp) (by simp) hs heffect hs.2
  · simp only [List.mem_cons, List.not_mem_nil, or_false] at hc
    have heffect : effectOf c s = freed := by
      rcases hc with rfl | rfl | rfl | rfl | rfl | rfl | rfl | rfl | rfl | rfl | rfl <;>
        simp only [effectOf, takeAnswer_abandoned horigin, freeIdent, freed]
    exact exec_of_effect (by rintro rfl; simp at hc) (by rintro rfl; simp at hc) hs heffect hs.2

end Sys2Proof.Machine
end

section
/-! PROOF. Captures (O15 to O20, O22): the wait for the granule (R133, R136), the answers to old-image reads, record writes and VOID
writes (R52 to R60), and a trigger's answer (R55). -/

namespace Sys2Proof.Machine

/-! ### The wait for the granule -/

/-- The FORWARD class holds a request to the granule that the capture unit forwarded (R133, R136). -/
theorem requestWaiting_iff (d : DLink) (g : Granule) : d.requestWaiting g = true ↔
    ∃ q ∈ d.forward, q.origin.byCaptureUnit = true ∧ granuleOf q.addr = g := by simp [DLink.requestWaiting]

theorem issueOldReads_waiting {s : State} {i : Fin 8} {c : CaptureSlot} (hc : s.capture.slots[i] = some c)
    (h : s.dlink.requestWaiting c.granule = true) : issueOldReads s i = s := by
  have hslot : s.capture.slot? i = some c := hc
  simp [issueOldReads, hslot, h]

theorem issueOldReads_issue {s : State} {i : Fin 8} {c : CaptureSlot} (hc : s.capture.slots[i] = some c)
    (hphase : c.phase = .readingOld) (hissued : c.readsIssued = false) (h : s.dlink.requestWaiting c.granule = false) :
    issueOldReads s i = readyCapture (setSlot s i (some { c with readsIssued := true }))
      (granuleLines.map (fun k => readLine (granuleLine c.granule k.val) (.oldRead i k))) := by
  have hslot : s.capture.slot? i = some c := hc
  simp [issueOldReads, hslot, hphase, hissued, h]

theorem issueWriteBacks_waiting {s : State} (h : s.dlink.requestWaiting (granuleOf (writeBackAddr s)) = true) :
    issueWriteBacks s = s := by simp [issueWriteBacks, h]

theorem issueWriteBacks_issue {s : State} (hphase : s.restore.phase = .writingBack) (hissued : s.restore.issued = false)
    (h : s.dlink.requestWaiting (granuleOf (writeBackAddr s)) = false) :
    issueWriteBacks s = readyRestore { s with restore.issued := true } (writeBacks s) := by
  simp [issueWriteBacks, hphase, hissued, h]

/-- The image of the record in hand: the lines after the header. -/
theorem handImage_getD (v : Vector (Option Line) 5) (k : Fin 4) :
    ((v.toList.drop 1).map (fun l => l.getD zeroLine)).getD k.val zeroLine = v[k.val + 1].getD zeroLine := by
  rw [List.getD_eq_getElem?_getD, List.getElem?_map, List.getElem?_drop, Nat.add_comm, List.getElem?_eq_getElem (by simp; omega)]
  simp

/-- The four write-backs, one for each line of the image (R111). -/
theorem writeBacks_eq (s : State) : writeBacks s = ([(0, 1), (1, 2), (2, 3), (3, 4)] : List (Nat × Fin 5)).map (fun p =>
    ⟨.write, writeBackAddr s + BitVec.ofNat 48 (64 * p.1), 64, (s.restore.hand[p.2].getD zeroLine).toList,
      List.replicate 64 true, .writeBack⟩) := by
  unfold writeBacks granuleLines
  simp only [List.map_cons, List.map_nil, handImage_getD]
  rfl

/-- Settles O15: both waits are `requestWaiting`. -/
theorem readsAndWriteBacksWaitForTheGranule : Obligations.ReadsAndWriteBacksWaitForTheGranule := by
  intro s hs waiting
  have hwaiting (g : Granule) : s.dlink.requestWaiting g = true ↔ waiting g := requestWaiting_iff s.dlink g
  have hclear {g : Granule} (h : ¬ waiting g) : s.dlink.requestWaiting g = false := Bool.eq_false_iff.2 (mt (hwaiting g).1 h)
  refine ⟨fun i c hc hphase hissued => ⟨fun h => ?_, fun h => ?_⟩, fun hphase hissued => ?_⟩
  · exact exec_of_effect (c := .captureReadsIssue i) (by simp) (by simp) hs (issueOldReads_waiting hc ((hwaiting _).2 h)) hs.2
  · refine ⟨_, exec_of_effect (c := .captureReadsIssue i) (by simp) (by simp) hs (issueOldReads_issue hc hphase hissued (hclear h)) hs.2,
      rfl, setSlot_self s i _, fun j hj => setSlot_other s _ hj⟩
  intro granuleAt
  refine ⟨fun h => ?_, fun h => ?_⟩
  · exact exec_of_effect (c := .writeBackIssue) (by simp) (by simp) hs (issueWriteBacks_waiting ((hwaiting _).2 h)) hs.2
  · have heffect := issueWriteBacks_issue hphase hissued (hclear h)
    rw [writeBacks_eq] at heffect
    exact exec_of_effect (c := .writeBackIssue) (by simp) (by simp) hs heffect hs.2

/-! ### Answers to old-image reads -/

/-- A slot after one answer to an old-image read (R52). -/
theorem takeRead_eq (c : CaptureSlot) (k : Fin 4) (st : DStatus) (data : Line) : c.takeRead k st data =
    { c with image := (if st = .ok then c.image.set k.val (some data) k.isLt else c.image), awaited := c.awaited - 1,
             errorSeen := c.errorSeen || st == .error } := by
  cases st with
  | ok => simp [CaptureSlot.takeRead]
  | error => simp [CaptureSlot.takeRead]

/-- An answer that is not the fourth is stored (R52). -/
theorem takeOldRead_count {s : State} {i : Fin 8} {c : CaptureSlot} (k : Fin 4) (st : DStatus) (data : Line)
    (hc : s.capture.slots[i] = some c) (hphase : c.phase = .readingOld) (hkind : c.kind = .preImage) (hcount : 2 ≤ c.awaited) :
    takeOldRead s i k st data = setSlot s i (some (c.takeRead k st data)) := by
  have hmore : (c.takeRead k st data).awaited ≠ 0 := by rw [takeRead_eq]; simp; omega
  simp only [takeOldRead, slotIn_some_iff.2 ⟨hc, hphase, hkind⟩, if_pos hmore]

/-- The fourth answer acts: a sound capture begins its record, and the others take a capture read fault (R52, R53, R57). -/
theorem takeOldRead_last {s : State} {i : Fin 8} {c : CaptureSlot} (k : Fin 4) (st : DStatus) (data : Line)
    (hc : s.capture.slots[i] = some c) (hphase : c.phase = .readingOld) (hkind : c.kind = .preImage) (hcount : c.awaited = 1) :
    takeOldRead s i k st data = if c.errorSeen || st == .error then captureReadFault s i (c.takeRead k st data)
      else beginRecord s i (c.takeRead k st data) := by
  have hlast : ¬ (c.takeRead k st data).awaited ≠ 0 := by rw [takeRead_eq]; simp [hcount]
  have herror : (c.takeRead k st data).errorSeen = (c.errorSeen || st == .error) := by rw [takeRead_eq]
  simp only [takeOldRead, slotIn_some_iff.2 ⟨hc, hphase, hkind⟩, if_neg hlast, herror]

/-- Settles O16, by `takeOldRead_count` and `takeOldRead_last`. -/
theorem oldImageReadIsTaken : Obligations.OldImageReadIsTaken := by
  intro s id i k c st data hs horigin hc hphase hkind image bad hcase
  have heffect := effectOf_oldImageReadAnswer st data horigin
  rcases hcase with hcount | ⟨hcount, hbad⟩
  · rw [takeOldRead_count k st data (by exact hc) hphase hkind hcount, takeRead_eq] at heffect
    refine ⟨_, exec_of_effect (by simp) (by simp) hs heffect hs.2, rfl, fun j hj => setSlot_other _ _ hj,
      fun _ => ⟨rfl, setSlot_self _ i _⟩, fun h => by omega⟩
  · have hsound : (c.errorSeen || st == .error) = false := hbad
    rw [takeOldRead_last k st data (by exact hc) hphase hkind hcount, if_neg (Bool.eq_false_iff.1 hsound), takeRead_eq] at heffect
    refine ⟨_, exec_of_effect (by simp) (by simp) hs heffect hs.2, rfl, fun j hj => setSlot_other _ _ hj,
      fun h => by omega, fun _ => ⟨setSlot_self _ i _, rfl⟩⟩

/-- The granule-table entry of a failed capture (R57, R59). -/
theorem dropEntry_eq (s : State) (c : CaptureSlot) : dropEntry s c =
    { s with capture.table := (if c.spilled = false ∧ c.epoch = s.epoch.current
               then s.capture.table.filter (fun g => g != c.granule) else s.capture.table) } := by
  unfold dropEntry
  by_cases h : c.spilled = false ∧ c.epoch = s.epoch.current
  · rw [if_pos h, if_pos (by simp [h])]
  · rw [if_neg h, if_neg (by simpa using h)]

/-- The U-link port after a trigger is answered, if it is present (R55, R57). -/
def ulinkAnswered (u : ULink) (trigger : Option Request) (st : Status) : ULink :=
  match trigger with
  | some r => ⟨u.outstanding.filter (fun x => x != r.id), u.returned ++ [⟨.write, r.id, st, []⟩]⟩
  | none => u

/-- The slot a capture read fault leaves: its VOID record is being written (R57, R58). -/
def CaptureSlot.voided (c : CaptureSlot) : CaptureSlot :=
  { c with trigger := none, kind := .void, phase := .writingRecord, image := Vector.replicate 4 none, awaited := 1, errorSeen := false }

/-- A capture read fault, but for its notice (R57, R58). -/
theorem captureReadFault_eq {s : State} {i : Fin 8} {c : CaptureSlot}
    (hout : ∀ r, c.trigger = some r → r.id ∈ s.ulink.outstanding) : captureReadFault s i c =
      post
        { setSlot s i (some c.voided) with
          capture.table := (if c.spilled = false ∧ c.epoch = s.epoch.current
            then s.capture.table.filter (fun g => g != c.granule) else s.capture.table)
          ulink := ulinkAnswered s.ulink c.trigger .captureFailed
          dlink.capture := s.dlink.capture ++ [writeLine (s.journal.slotLine c.sequence 0) (voidHeader c.voided) (.void i)] }
        (.captureFault c.granule c.sequence c.epoch (c.trigger.map (fun r => r.id))) := by
  unfold captureReadFault ulinkAnswered CaptureSlot.voided
  cases htrigger : c.trigger with
  | none =>
    simp only [dropEntry_eq]
    rfl
  | some r =>
    simp only [respond_of_mem (hout r htrigger), dropEntry_eq]
    rfl

/-- The header of a VOID record holds nothing that the fault changes in its slot (R58). -/
theorem voidHeader_voided (c : CaptureSlot) : voidHeader c.voided = voidHeader c := rfl

theorem slotLine_zero (j : Journal) (q : Seq) : j.slotLine q 0 = j.base + BitVec.ofNat 48 (q.toNat % j.slots * 320) := by
  simp [Journal.slotLine, Journal.slotAddr]

/-- Settles O17, by `captureReadFault_eq`. -/
theorem captureReadFaultIsTaken : Obligations.CaptureReadFaultIsTaken := by
  intro s id i k c st data hs horigin hc hphase hkind hcount hbad hout
  have heffect := effectOf_oldImageReadAnswer st data horigin
  have hvoided : (c.takeRead k st data).voided = c.voided := by rw [takeRead_eq]; rfl
  have hbad : (c.errorSeen || st == .error) = true := by simpa using hbad
  have htrigger : (c.takeRead k st data).trigger = c.trigger := by rw [takeRead_eq]
  rw [takeOldRead_last k st data (by exact hc) hphase hkind hcount, if_pos hbad,
    captureReadFault_eq (by rw [htrigger]; exact hout), hvoided, voidHeader_voided, takeRead_eq, slotLine_zero] at heffect
  refine ⟨_, exec_of_effect (by simp) (by simp) hs heffect ?_, ?_, ?_, fun j hj => ?_, ?_⟩
  · rw [post_status]; exact hs.2
  · refine (post_frame _ _).trans ?_
    simp only [post_capture, ulinkAnswered]
    cases c.trigger <;> rfl
  · rw [post_capture]; exact setSlot_self _ i _
  · rw [post_capture]; exact setSlot_other _ _ hj
  · exact handed_post_of _ rfl rfl rfl rfl

/-! ### Answers to record writes -/

/-- A slot after one answer to a record write (R54). -/
def CaptureSlot.counted (c : CaptureSlot) (st : DStatus) : CaptureSlot :=
  { c with awaited := c.awaited - 1, errorSeen := c.errorSeen || st == .error }

/-- An answer that is not the fifth is counted (R54). -/
theorem takeRecordWrite_count {s : State} {i : Fin 8} {c : CaptureSlot} (st : DStatus) (hc : s.capture.slots[i] = some c)
    (hphase : c.phase = .writingRecord) (hkind : c.kind = .preImage) (hcount : 2 ≤ c.awaited) :
    takeRecordWrite s i st = setSlot s i (some (c.counted st)) := by
  have hmore : c.awaited - 1 ≠ 0 := by omega
  simp only [takeRecordWrite, slotIn_some_iff.2 ⟨hc, hphase, hkind⟩, if_pos hmore]
  rfl

/-- The fifth answer acts: the record is complete, or a journal write fault is taken (R54, R59). -/
theorem takeRecordWrite_last {s : State} {i : Fin 8} {c : CaptureSlot} (st : DStatus) (hc : s.capture.slots[i] = some c)
    (hphase : c.phase = .writingRecord) (hkind : c.kind = .preImage) (hcount : c.awaited = 1) :
    takeRecordWrite s i st =
      if c.errorSeen || st == .error then forwardTrigger (dropEntry (journalWriteFault s) c) i (c.counted st)
      else forwardTrigger (complete s c.sequence) i (c.counted st) := by
  have hlast : ¬ (c.awaited - 1 ≠ 0) := by omega
  simp only [takeRecordWrite, slotIn_some_iff.2 ⟨hc, hphase, hkind⟩, if_neg hlast]
  rfl

/-- The slot whose trigger is in the FORWARD class (R54). -/
def CaptureSlot.forwarded (c : CaptureSlot) : CaptureSlot := { c with phase := .forwarding, awaited := 1, errorSeen := false }

theorem forwardTrigger_some {s : State} {i : Fin 8} {c : CaptureSlot} {r : Request} (st : DStatus) (h : c.trigger = some r) :
    forwardTrigger s i (c.counted st) =
      readyForward (setSlot s i (some c.forwarded)) [⟨r.kind, r.addr, r.length, r.data, r.mask, .trigger i⟩] := by
  unfold forwardTrigger
  split
  · rename_i x hx
    cases h.symm.trans hx
    rfl
  · rename_i hx
    cases h.symm.trans hx

theorem forwardTrigger_none {s : State} {i : Fin 8} {c : CaptureSlot} (st : DStatus) (h : c.trigger = none) :
    forwardTrigger s i (c.counted st) = freeSlot s i := by
  have hcounted : (c.counted st).trigger = none := h
  simp only [forwardTrigger, hcounted]

/-- A completion report that ends no drain (R71, R72, R106). -/
theorem complete_spec {s : State} (q : Seq) (h : s.epoch.engine ≠ .draining ∨ s.capture.noneBusy = false) :
    ∃ k, Completed q s.journal k ∧ complete s q =
      { s with journal := k, epoch.advances := s.epoch.advances ++ (if q = s.journal.frontier then [k.frontier] else []) } :=
  ⟨(complete s q).journal, complete_journal q h, complete_eq q h⟩

theorem noneBusy_of_slot {s : State} {i : Fin 8} {c : CaptureSlot} (hc : s.capture.slots[i] = some c) : s.capture.noneBusy = false :=
  noneBusy_of_busy (j := i) (by rw [hc]; simp)

/-- Settles O18: the answer is counted, or the record is complete and its trigger goes on. -/
theorem recordWriteIsTaken : Obligations.RecordWriteIsTaken := by
  intro s id i c st hs horigin hc hphase hkind bad hcase hdrain
  have heffect := effectOf_recordWriteAnswer st horigin
  have hslot : (freeIdent s id).capture.slots[i] = some c := hc
  rcases hcase with hcount | ⟨hcount, hbad⟩
  · rw [takeRecordWrite_count st hslot hphase hkind hcount] at heffect
    have hnot : ¬ (c.awaited = 1 ∧ c.trigger = none) := fun h => by omega
    refine ⟨_, exec_of_effect (by simp) (by simp) hs heffect hs.2, ?_, fun j hj => setSlot_other _ _ hj,
      fun _ => ⟨rfl, rfl, rfl, setSlot_self _ i _⟩, fun h => by omega⟩
    rw [if_neg hnot]
    rfl
  · have hsound : (c.errorSeen || st == .error) = false := hbad
    obtain ⟨k, hjournal, hcomplete⟩ := complete_spec c.sequence (.inr (noneBusy_of_slot hslot))
    rw [takeRecordWrite_last st hslot hphase hkind hcount, if_neg (Bool.eq_false_iff.1 hsound), hcomplete] at heffect
    obtain htrigger | ⟨r, htrigger⟩ := Option.eq_none_or_eq_some c.trigger
    · rw [forwardTrigger_none st htrigger, freeSlot_eq (by exact (hdrain hcount htrigger).imp_right .inr)] at heffect
      refine ⟨_, exec_of_effect (by simp) (by simp) hs heffect hs.2, ?_, fun j hj => setSlot_other _ _ hj, fun h => by omega,
        fun _ => ⟨hjournal, rfl, fun x hx => ?_, fun _ => ⟨rfl, setSlot_self _ i _⟩⟩⟩
      · have hgone : c.awaited = 1 ∧ c.trigger = none := ⟨hcount, htrigger⟩
        rw [if_pos hgone]
        rfl
      · cases htrigger.symm.trans hx
    · rw [forwardTrigger_some st htrigger] at heffect
      refine ⟨_, exec_of_effect (by simp) (by simp) hs heffect hs.2, ?_, fun j hj => setSlot_other _ _ hj, fun h => by omega,
        fun _ => ⟨hjournal, rfl, fun x hx => ?_, fun h => ?_⟩⟩
      · have hstays : ¬ (c.awaited = 1 ∧ c.trigger = none) := by simp [htrigger]
        rw [if_neg hstays]
        rfl
      · cases htrigger.symm.trans hx
        exact ⟨rfl, setSlot_self _ i _⟩
      · cases htrigger.symm.trans h

/-- A slot whose record could not be written goes on with its trigger, or becomes free (R59, R62). -/
theorem forwardTrigger_of_ne {s : State} {i : Fin 8} (c : CaptureSlot) (st : DStatus) (h : s.epoch.engine ≠ .draining) :
    forwardTrigger s i (c.counted st) =
      { setSlot s i (if c.trigger = none then none else some c.forwarded) with
        dlink.forward := s.dlink.forward ++ (match c.trigger with
          | some r => [⟨r.kind, r.addr, r.length, r.data, r.mask, .trigger i⟩]
          | none => [])
        hold.passes := s.hold.passes + (if c.trigger = none then 1 else 0) } := by
  cases htrigger : c.trigger with
  | some r =>
    rw [forwardTrigger_some st htrigger]
    simp [readyForward, setSlot]
  | none =>
    rw [forwardTrigger_none st htrigger, freeSlot_of_ne i h]
    simp [setSlot]

/-- The end of an action that asks for a status block if the engine breaks in it (R2, R156). -/
theorem settle_status_of {s v : State} {breaks : Prop} [Decidable breaks] (hs : s.status.asked = false)
    (h : v.status = { s.status with asked := if breaks then true else s.status.asked }) :
    (settle v).status = { s.status with requests := s.status.requests + if breaks then 1 else 0 } := by
  rw [settle_status, h]
  by_cases hb : breaks
  · simp [hb, hs]
  · simp [hb, hs]

/-- Settles O19: a journal write fault, the granule's entry removed, and the trigger forwarded all the same. -/
theorem recordWriteFaultBreaksTheEpoch : Obligations.RecordWriteFaultBreaksTheEpoch := by
  intro s id i c st hs horigin hc hphase hkind hcount hbad breaks
  have heffect := effectOf_recordWriteAnswer st horigin
  have hbad : (c.errorSeen || st == .error) = true := by simpa using hbad
  have hhanded := journalWriteFault_handed (freeIdent s id)
  have hdraining := journalWriteFault_engine_ne_draining (freeIdent s id)
  have hframe := journalWriteFault_frame (freeIdent s id)
  rw [takeRecordWrite_last st (by exact hc) hphase hkind hcount, if_pos hbad,
    forwardTrigger_of_ne c st (by rw [dropEntry_eq]; exact hdraining)] at heffect
  generalize journalWriteFault (freeIdent s id) = u at *
  generalize u.notice = n, u.dlink.report = p at hframe
  subst hframe
  refine ⟨_, exec_settled (by simp) (by simp) hs heffect, ?_, ?_, fun j hj => ?_, ?_⟩
  · rw [settle_frame, settle_status_of (s := s) (breaks := breaks) hs.2 (by rw [dropEntry_eq]; rfl), dropEntry_eq]
    rfl
  · rw [settle_frame, dropEntry_eq]; exact setSlot_self _ i _
  · rw [settle_frame, dropEntry_eq]; exact setSlot_other _ _ hj
  · rw [settle_frame, dropEntry_eq]
    exact hhanded.congr rfl rfl rfl rfl rfl

/-! ### VOID records and triggers -/

/-- Settles O20: the record is complete, and the slot is free. -/
theorem voidRecordCompletes : Obligations.VoidRecordCompletes := by
  intro s id i c hs horigin hc hphase hkind hdrain
  have heffect := effectOf_voidWriteAnswer .ok horigin
  have hslot : (freeIdent s id).capture.slots[i] = some c := hc
  obtain ⟨k, hjournal, hcomplete⟩ := complete_spec c.sequence (.inr (noneBusy_of_slot hslot))
  simp only [takeVoidWrite, slotIn_some_iff.2 ⟨hslot, hphase, hkind⟩, hcomplete] at heffect
  rw [freeSlot_eq (by exact hdrain.imp_right .inr)] at heffect
  exact ⟨_, exec_of_effect (by simp) (by simp) hs heffect hs.2, rfl, hjournal, setSlot_self _ i _, fun j hj => setSlot_other _ _ hj⟩

/-- A trigger's answer goes back to its requester and its slot becomes free (R55, R134). -/
theorem takeTriggerResponse_eq {s : State} {i : Fin 8} {c : CaptureSlot} (st : DStatus) (hc : s.capture.slots[i] = some c)
    (hphase : c.phase = .forwarding) (hkind : c.kind = .preImage) (hout : ∀ r, c.trigger = some r → r.id ∈ s.ulink.outstanding) :
    takeTriggerResponse s i st = freeSlot { s with ulink := ulinkAnswered s.ulink c.trigger (mapStatus st) } i := by
  simp only [takeTriggerResponse, slotIn_some_iff.2 ⟨hc, hphase, hkind⟩]
  cases htrigger : c.trigger with
  | some r =>
    simp only [respond_of_mem (hout r htrigger)]
    rfl
  | none => rfl

/-- Settles O22, by `takeTriggerResponse_eq`. -/
theorem triggerResponseFreesTheSlot : Obligations.TriggerResponseFreesTheSlot := by
  intro s id i c st hs horigin hc hphase hkind hout hdrain
  have heffect := effectOf_triggerResponse st horigin
  rw [takeTriggerResponse_eq st (by exact hc) hphase hkind (by exact hout), freeSlot_eq (by exact hdrain), mapStatus_eq] at heffect
  refine ⟨_, exec_of_effect (by simp) (by simp) hs heffect hs.2, ?_, setSlot_self _ i _, fun j hj => setSlot_other _ _ hj⟩
  simp only [ulinkAnswered]
  cases c.trigger <;> rfl

end Sys2Proof.Machine
end

section
/-! PROOF. The end of a drain (O23), markers (O24) and the epoch controller's reports (O25). -/

namespace Sys2Proof.Machine

/-! ### Completion reports -/

/-- The journal after the completion report of a sequence (R71, R72). -/
def Journal.record (j : Journal) (q : Seq) : Journal :=
  if q = j.frontier then
    { j with frontier := (absorb j.completed.length (q + 1) j.completed).1
             completed := (absorb j.completed.length (q + 1) j.completed).2 }
  else { j with completed := j.completed ++ [q] }

theorem complete_frontier {s : State} {q : Seq} (h : q = s.journal.frontier) : complete s q =
    drainTest { s with journal := s.journal.record q, epoch.advances := s.epoch.advances ++ [(s.journal.record q).frontier] } := by
  simp only [complete, Journal.record, if_pos h]

theorem complete_elsewhere {s : State} {q : Seq} (h : q ≠ s.journal.frontier) :
    complete s q = { s with journal := s.journal.record q } := by
  simp only [complete, Journal.record, if_neg h]

theorem completed_record (j : Journal) (q : Seq) : Completed q j (j.record q) := by
  have hdrain : ({ State.reset with journal := j } : State).epoch.engine ≠ .draining := by simp [State.reset, EpochController.reset]
  have h := complete_journal (s := { State.reset with journal := j }) q (.inl hdrain)
  by_cases hq : q = j.frontier
  · rwa [complete_frontier (by exact hq), drainTest_of_ne (by exact hdrain)] at h
  · rwa [complete_elsewhere (by exact hq)] at h

/-! ### Advances taken one by one -/

theorem post_advances (s : State) (a : List Seq) (b : NoticeBody) :
    post { s with epoch.advances := a } b = { post s b with epoch.advances := a } := by
  unfold post
  simp only
  split
  · unfold tryRingWrite
    simp only
    split
    · rfl
    · split <;> rfl
  · rfl

theorem reportClose_advances (s : State) (a : List Seq) (e : IndexEntry) :
    reportClose { s with epoch.advances := a } e = { reportClose s e with epoch.advances := a } := by
  unfold reportClose
  split
  · simp only [post_advances]
    rfl
  · rfl

theorem foldl_reportClose_advances (es : List IndexEntry) (s : State) (a : List Seq) :
    es.foldl reportClose { s with epoch.advances := a } = { (es.foldl reportClose s) with epoch.advances := a } := by
  induction es generalizing s with
  | nil => rfl
  | cons e es ih => rw [List.foldl_cons, List.foldl_cons, reportClose_advances, ih]

/-- Taking an advance reads no other advance. -/
theorem takeAdvance_advances (s : State) (a : List Seq) (f : Seq) :
    takeAdvance { s with epoch.advances := a } f = { takeAdvance s f with epoch.advances := a } :=
  foldl_reportClose_advances _
    { s with epoch.index := s.epoch.index.map (fun e => if closes s.journal f e then { e with state := .closed } else e) } a

/-- The oldest advance and then the others are all the advances. -/
theorem takeAdvances_takeAdvance {s : State} {f : Seq} {rest : List Seq} (h : s.epoch.advances = f :: rest) :
    takeAdvances (takeAdvance { s with epoch.advances := rest } f) = takeAdvances s := by
  unfold takeAdvances
  rw [takeAdvance_advances s rest f, h, List.foldl_cons, takeAdvance_advances s [] f]

/-- A drain that ends when an advance is taken ends as if all the advances were still out (R12, R106). -/
theorem takeOldestAdvance_drained {s : State} {f : Seq} {rest : List Seq} (h : s.epoch.advances = f :: rest)
    (hengine : s.epoch.engine = .draining) (hslots : s.capture.noneBusy = true) (hfrontier : s.journal.frontier = s.journal.head) :
    takeOldestAdvance s = drainTest s := by
  have htake : takeOldestAdvance s = drainTest (takeAdvance { s with epoch.advances := rest } f) := by simp [takeOldestAdvance, h]
  obtain ⟨n, p, a, hframe⟩ := takeAdvance_frame { s with epoch.advances := rest } f
  have hends : drainTest (takeAdvance { s with epoch.advances := rest } f) =
      startWalk (setEngine (takeAdvances (takeAdvance { s with epoch.advances := rest } f)) .restoring) := by
    refine if_pos ?_
    rw [hframe]
    exact ⟨hengine, hslots, hfrontier⟩
  rw [htake, hends, takeAdvances_takeAdvance h]
  exact (if_pos ⟨hengine, hslots, hfrontier⟩).symm

/-! ### The end of a drain -/

/-- No slot is busy once the last one is free. -/
theorem setSlot_slots_empty {s : State} {i : Fin 8} (h : ∀ j : Fin 8, j ≠ i → s.capture.slots[j] = none) :
    (setSlot s i none).capture.slots = Vector.replicate 8 none := by
  apply Vector.ext
  intro n hn
  rw [Vector.getElem_replicate]
  by_cases hi : (⟨n, hn⟩ : Fin 8) = i
  · subst hi
    exact setSlot_self s _ none
  · exact (setSlot_other s none hi).trans (h _ hi)

theorem noneBusy_empty (table : List Granule) : Capture.noneBusy ⟨table, Vector.replicate 8 none⟩ = true :=
  (noneBusy_iff _).2 fun _ => Vector.getElem_replicate _

/-- A slot that becomes free and is the last busy one: the drain test is made with every slot empty (R55, R106). -/
theorem freeSlot_last {s : State} {i : Fin 8} (h : ∀ j : Fin 8, j ≠ i → s.capture.slots[j] = none) :
    freeSlot s i = drainTest { s with capture.slots := Vector.replicate 8 none, hold.passes := s.hold.passes + 1 } := by
  unfold freeSlot
  rw [← setSlot_slots_empty h]
  rfl

/-- The drain that a rollback waits for ends in the state `v`, which differs from `s` in nothing that the rollback reads. -/
theorem drainEnded_of {s v : State} {older newer : List IndexEntry} {e : IndexEntry} (hsound : EngineSound s)
    (hengine : s.epoch.engine = .draining) (htarget : s.epoch.target = some e.number) (hindex : s.epoch.index = older ++ e :: newer)
    (vengine : v.epoch.engine = s.epoch.engine) (vtarget : v.epoch.target = s.epoch.target) (vindex : v.epoch.index = s.epoch.index)
    (vslots : v.capture.noneBusy = true) (vfrontier : v.journal.frontier = v.journal.head) (vasked : v.status.asked = false) :
    DrainEnded { v with status.requests := v.status.requests + 1 } (settle (drainTest v)) [] older e := by
  obtain ⟨-, -, -, hlength, hnumbers, -⟩ := hsound
  refine drainTest_ended (newer := newer) ?_ (Handed.of_eq rfl rfl) (vengine.trans hengine) vslots vfrontier (vtarget.trans htarget)
    (vindex.trans hindex) (vindex ▸ hnumbers) (vindex ▸ hlength)
  rw [← vasked]

/-- A drain that goes on leaves the state as it is. -/
theorem settle_drainTest_waiting {v : State} (h : v.journal.frontier ≠ v.journal.head) (hasked : v.status.asked = false) :
    settle (drainTest v) = v := by
  rw [drainTest_waiting (.inr h), settle_of_quiet hasked]

/-! ### Marker writes -/

/-- The state once a marker is no longer unanswered (R11). -/
def State.markerAnswered (s : State) (q : Seq) : State :=
  { s with epoch.markers := s.epoch.markers.filter (fun x => x.sequence != q) }

/-- An answer to a marker's line write that is not the fifth is counted (R11). -/
theorem takeMarkerWrite_count {s : State} {q : Seq} {m : MarkerWrite} (st : DStatus)
    (hm : s.epoch.markers.find? (fun x => x.sequence == q) = some m) (hcount : 2 ≤ m.awaited) : takeMarkerWrite s q st =
      { s with epoch.markers := s.epoch.markers.map (fun x => if x.sequence = q then
          { m with awaited := m.awaited - 1, errorSeen := m.errorSeen || st == .error } else x) } := by
  have hmore : (m.take st).awaited ≠ 0 := by simp only [MarkerWrite.take]; omega
  simp only [takeMarkerWrite, hm, if_pos hmore]
  rfl

/-- The fifth answer acts: the marker is complete, or a journal write fault is taken (R11). -/
theorem takeMarkerWrite_last {s : State} {q : Seq} {m : MarkerWrite} (st : DStatus)
    (hm : s.epoch.markers.find? (fun x => x.sequence == q) = some m) (hcount : m.awaited = 1) : takeMarkerWrite s q st =
      if m.errorSeen || st == .error then journalWriteFault (s.markerAnswered q) else complete (s.markerAnswered q) q := by
  have hlast : ¬ (m.take st).awaited ≠ 0 := by simp only [MarkerWrite.take]; omega
  simp only [takeMarkerWrite, hm, if_neg hlast]
  rfl

/-- Settles O23: each of the five events comes to a drain test, and `drainTest_ended` says what that does. -/
theorem drainEndStartsTheWalk : Obligations.DrainEndStartsTheWalk := by
  intro s older newer e hs hsound hengine htarget hindex empty others advanced
  refine ⟨fun f rest hadvances hslots hfrontier => ?_, fun id => ?_⟩
  · have hnone := (noneBusy_iff s.capture).2 hslots
    refine ⟨_, exec_settled (c := .frontierAdvanceReport) (by simp) (by simp) hs
      (takeOldestAdvance_drained hadvances hengine hnone hfrontier), ?_⟩
    exact drainEnded_of hsound hengine htarget hindex rfl rfl rfl hnone hfrontier hs.2
  intro freed slotFreed
  refine ⟨fun i c st horigin hc hphase hkind hothers hout hfrontier => ?_, fun i c event hc hphase hothers hevent => ?_,
    fun q m horigin hmarker hq hcount herror hslots => ?_⟩
  · have heffect := effectOf_triggerResponse st horigin
    rw [takeTriggerResponse_eq st (by exact hc) hphase hkind (by exact hout), freeSlot_last (by exact hothers), mapStatus_eq] at heffect
    refine ⟨_, exec_settled (by simp) (by simp) hs heffect, ?_⟩
    have hended := drainEnded_of (v := { slotFreed with ulink := ulinkAnswered s.ulink c.trigger (if st = .ok then .ok else .memError) })
      hsound hengine htarget hindex rfl rfl rfl (noneBusy_empty _) hfrontier hs.2
    revert hended
    unfold ulinkAnswered
    cases c.trigger <;> exact fun h => h
  · obtain ⟨k, hjournal, hcomplete⟩ := complete_spec (s := freed) c.sequence (.inr (noneBusy_of_slot (i := i) hc))
    have heffect : effectOf event s =
        drainTest { slotFreed with journal := k, epoch.advances := advanced c.sequence k } := by
      rcases hevent with ⟨rfl, horigin, hkind⟩ | ⟨rfl, horigin, hkind, hcount, herror, htrigger⟩
      · rw [effectOf_voidWriteAnswer .ok horigin, takeVoidWrite, slotIn_some_iff.2 ⟨by exact hc, hphase, hkind⟩]
        exact (congrArg (freeSlot · i) hcomplete).trans (freeSlot_last hothers)
      · rw [effectOf_recordWriteAnswer .ok horigin, takeRecordWrite_last .ok (by exact hc) hphase hkind hcount, herror,
          if_neg (by decide), forwardTrigger_none .ok htrigger]
        exact (congrArg (freeSlot · i) hcomplete).trans (freeSlot_last hothers)
    have hpower : event ≠ .powerOnReset ∧ event ≠ .resetDeasserted := by
      rcases hevent with ⟨rfl, -⟩ | ⟨rfl, -⟩ <;> simp
    refine ⟨_, k, exec_settled hpower.1 hpower.2 hs heffect, hjournal, fun hfrontier => ?_, fun hfrontier => ?_⟩
    · exact drainEnded_of hsound hengine htarget hindex rfl rfl rfl (noneBusy_empty _) hfrontier hs.2
    · exact settle_drainTest_waiting hfrontier hs.2
  · have hlast := takeMarkerWrite_last (s := freed) .ok hmarker hcount
    rw [herror, if_neg (by decide)] at hlast
    have heffect := (effectOf_markerWriteAnswer .ok horigin).trans hlast
    have hnone := (noneBusy_iff s.capture).2 hslots
    by_cases hfrontier : q = s.journal.frontier
    · rw [complete_frontier (by exact hfrontier)] at heffect
      refine ⟨_, s.journal.record q, exec_settled (by simp) (by simp) hs heffect, completed_record _ _, ?_⟩
      simp only [advanced, if_pos hfrontier]
      refine ⟨fun _ hhead => ?_, fun hwaits => ?_⟩
      · exact drainEnded_of (v := { freed.markerAnswered q with
          journal := s.journal.record q, epoch.advances := s.epoch.advances ++ [(s.journal.record q).frontier] })
          hsound hengine htarget hindex rfl rfl rfl hnone hhead hs.2
      · exact settle_drainTest_waiting (hwaits.resolve_left fun h => h hfrontier) hs.2
    · rw [complete_elsewhere (by exact hfrontier)] at heffect
      refine ⟨_, s.journal.record q, exec_of_effect (by simp) (by simp) hs heffect hs.2, completed_record _ _,
        fun h => absurd h hfrontier, fun _ => ?_⟩
      simp only [advanced, if_neg hfrontier, List.append_nil]
      rfl

/-! ### Markers and the frontier -/

/-- Settles O24, by `takeMarkerWrite_count` and `takeMarkerWrite_last`. -/
theorem markerWriteIsTaken : Obligations.MarkerWriteIsTaken := by
  intro s id q m st hs horigin hmarker hq bad breaks counted freed
  have heffect := effectOf_markerWriteAnswer st horigin
  refine ⟨fun hcount => ?_, fun hcount hsound hdrain => ?_, fun hcount hbad => ?_⟩
  · rw [takeMarkerWrite_count st (by exact hmarker) hcount] at heffect
    exact exec_of_effect (by simp) (by simp) hs heffect hs.2
  · have hsound : (m.errorSeen || st == .error) = false := hsound
    have hopen : (State.markerAnswered freed q).epoch.engine ≠ .draining ∨ (State.markerAnswered freed q).capture.noneBusy = false :=
      hdrain.imp_right fun ⟨j, hj⟩ => noneBusy_of_busy (j := j) hj
    obtain ⟨k, hjournal, hcomplete⟩ := complete_spec q hopen
    rw [takeMarkerWrite_last st (by exact hmarker) hcount, if_neg (Bool.eq_false_iff.1 hsound)] at heffect
    exact ⟨_, exec_of_effect (by simp) (by simp) hs (heffect.trans hcomplete) hs.2, rfl, hjournal⟩
  · have hbad : (m.errorSeen || st == .error) = true := hbad
    rw [takeMarkerWrite_last st (by exact hmarker) hcount, if_pos hbad] at heffect
    have hhanded := journalWriteFault_handed (State.markerAnswered freed q)
    have hframe := journalWriteFault_frame (State.markerAnswered freed q)
    have heffect : effectOf (.markerWriteAnswer id st) s = journalWriteFault (State.markerAnswered freed q) := heffect
    generalize journalWriteFault (State.markerAnswered freed q) = u at *
    generalize u.notice = n, u.dlink.report = p at hframe
    subst hframe
    refine ⟨_, exec_settled (by simp) (by simp) hs heffect, ?_, ?_⟩
    · rw [settle_frame, settle_status_of (s := s) (breaks := breaks) hs.2 rfl]
      rfl
    · rw [settle_frame]
      exact hhanded.congr rfl rfl rfl rfl rfl

/-! ### The epoch controller's reports -/

/-- An allocation report is counted for the current epoch (R7). -/
theorem countAllocation_eq (e : EpochController) (a : AllocReport) : countAllocation e a =
    { e with captureCount := (if a.epoch = e.current then min (e.captureCount + 1) 4294967295 else e.captureCount),
             spillCount := (if a.epoch = e.current ∧ a.spilled = true then min (e.spillCount + 1) 4294967295 else e.spillCount) } := by
  unfold countAllocation satSucc Config.countMax
  by_cases hepoch : a.epoch = e.current
  · by_cases hspilled : a.spilled = true
    · simp [hepoch, hspilled]
    · simp [hepoch, hspilled]
  · simp [hepoch]

/-- An advance asks for a status block if an entry closes by it; every CLOSING entry has its marker's origin (R9, R12). -/
theorem takeAdvance_asked {s : State} {f : Seq} (horigin : ∀ e ∈ s.epoch.index, e.state = .closing → e.origin.isSome = true) :
    (takeAdvance s f).status.asked = (s.status.asked || s.epoch.index.any (s.journal.passed f)) := by
  have hreported : ∀ e ∈ s.epoch.index, closes s.journal f e = true → (e.closeNotice? s.epoch.current).isSome = true := by
    intro e he hcloses
    simp only [closes, Bool.and_eq_true, beq_iff_eq] at hcloses
    obtain ⟨hstate, hmarker⟩ := hcloses
    obtain ⟨o, ho⟩ := Option.isSome_iff_exists.1 (horigin e he hstate)
    obtain ⟨m, hm, -⟩ := (Option.any_eq_true ..).1 hmarker
    simp [IndexEntry.closeNotice?, hm, ho]
  rw [takeAdvance, foldl_reportClose_asked, Bool.eq_iff_iff]
  simp only [Bool.or_eq_true, List.any_eq_true, List.mem_filter]
  refine or_congr_right ⟨fun ⟨e, ⟨he, hcloses⟩, _⟩ => ⟨e, he, hcloses⟩, ?_⟩
  exact fun ⟨e, he, hcloses⟩ => ⟨e, ⟨he, hcloses⟩, hreported e he hcloses⟩

/-- A drain that does not end yet goes on (R106). -/
theorem drainTest_open {s : State}
    (h : s.epoch.engine ≠ .draining ∨ s.journal.frontier ≠ s.journal.head ∨ ∃ j : Fin 8, s.capture.slots[j] ≠ none) :
    drainTest s = s := by
  rcases h with h | h | ⟨j, hj⟩
  · exact drainTest_of_ne h
  · exact drainTest_waiting (.inr h)
  · exact drainTest_waiting (.inl (noneBusy_of_busy hj))

/-- Settles O25: an allocation report is counted, and an advance that ends no drain closes its entries. -/
theorem epochControllerTakesReports : Obligations.EpochControllerTakesReports := by
  intro s hs
  refine ⟨fun a rest hreports => ?_, fun f rest hadvances hopen horigin => ?_⟩
  · have heffect : effectOf .allocationReport s = { s with epoch := countAllocation { s.epoch with allocReports := rest } a } := by
      simp [effectOf, takeAllocReport, hreports]
    rw [countAllocation_eq] at heffect
    exact exec_of_effect (by simp) (by simp) hs heffect hs.2
  · have htake : effectOf .frontierAdvanceReport s = drainTest (takeAdvance { s with epoch.advances := rest } f) := by
      simp [effectOf, takeOldestAdvance, hadvances]
    have hasked := takeAdvance_asked (s := { s with epoch.advances := rest }) (f := f) horigin
    have hhanded := takeAdvance_handed { s with epoch.advances := rest } f
    obtain ⟨n, p, a, hframe⟩ := takeAdvance_frame { s with epoch.advances := rest } f
    generalize takeAdvance { s with epoch.advances := rest } f = u at *
    subst hframe
    rw [drainTest_open (by exact hopen)] at htake
    refine ⟨_, exec_settled (by simp) (by simp) hs htake, ?_, ?_⟩
    · rw [settle_frame, settle_status]
      have hasked : a = s.epoch.index.any (s.journal.passed f) := hasked.trans (by rw [hs.2, Bool.false_or])
      rw [← hasked, ← hs.2]
    · rw [settle_frame]
      exact hhanded.congr rfl rfl rfl rfl rfl

end Sys2Proof.Machine
end

section
/-! PROOF. The restore walk (O26 to O31): the answers to record reads and write-backs (R109 to R113), a pending abort (R119), and the
end of the walk, its faults and its stop (R114, R115, R119). -/

namespace Sys2Proof.Machine

/-! ### Answers to record reads -/

/-- An answer to a record read is stored, or its error kept (R109). -/
theorem Restore.takeRead_eq {r : Restore} (k : Fin 5) (st : DStatus) (data : Line) (h : r.abortPending = false) :
    r.takeRead k st data =
      { r with hand := (if st = .ok then r.hand.set k.val (some data) k.isLt else r.hand), awaited := r.awaited - 1,
               errorSeen := r.errorSeen || st == .error } := by
  cases st with
  | ok => simp [Restore.takeRead, h]
  | error => simp [Restore.takeRead, h]

theorem Restore.takeRead_ok {r : Restore} (k : Fin 5) (data : Line) (h : r.abortPending = false) :
    r.takeRead k .ok data = { r with hand := r.hand.set k.val (some data) k.isLt, awaited := r.awaited - 1 } := by
  simp [Restore.takeRead, h]

/-- Under a pending abort an answer is counted and discarded (R119). -/
theorem Restore.takeRead_aborting {r : Restore} (k : Fin 5) (st : DStatus) (data : Line) (h : r.abortPending = true) :
    r.takeRead k st data = { r with awaited := r.awaited - 1 } := by simp [Restore.takeRead, h]

theorem Restore.takeRead_awaited (r : Restore) (k : Fin 5) (st : DStatus) (data : Line) :
    (r.takeRead k st data).awaited = r.awaited - 1 := by
  unfold Restore.takeRead
  split
  · rfl
  · cases st <;> rfl

theorem takeRestoreRead_count {s : State} (k : Fin 5) (st : DStatus) (data : Line) (hphase : s.restore.phase = .reading)
    (hcount : 2 ≤ s.restore.awaited) : takeRestoreRead s k st data = { s with restore := s.restore.takeRead k st data } := by
  have hmore : (s.restore.takeRead k st data).awaited ≠ 0 := by rw [Restore.takeRead_awaited]; omega
  simp only [takeRestoreRead, hphase, ne_eq, not_true_eq_false, if_false, if_pos hmore]

/-- The fifth answer acts: it ends the walk under a pending abort, and otherwise faults or judges the record (R109, R119). -/
theorem takeRestoreRead_last {s : State} (k : Fin 5) (st : DStatus) (data : Line) (hphase : s.restore.phase = .reading)
    (hcount : s.restore.awaited = 1) :
    takeRestoreRead s k st data =
      if (s.restore.takeRead k st data).abortPending then
        { s with restore := { s.restore.takeRead k st data with phase := .idle, report := some .stop } }
      else if (s.restore.takeRead k st data).errorSeen then
        { s with restore := { s.restore.takeRead k st data with report := some (.fault .readError) } }
      else judgeRecord { s with restore := s.restore.takeRead k st data } := by
  have hlast : ¬ (s.restore.takeRead k st data).awaited ≠ 0 := by rw [Restore.takeRead_awaited]; omega
  simp only [takeRestoreRead, hphase, ne_eq, not_true_eq_false, if_false, if_neg hlast]
  rfl

/-- Settles O26: an answer is counted, and a fifth with an error seen is a fault. -/
theorem restoreReadIsTaken : Obligations.RestoreReadIsTaken := by
  intro s id k st data hs horigin hphase habort hand bad freed
  have heffect := effectOf_restoreReadAnswer st data horigin
  refine ⟨fun hcount => ?_, fun hcount hbad => ?_⟩
  · rw [takeRestoreRead_count k st data (by exact hphase) (by exact hcount), Restore.takeRead_eq k st data (by exact habort)] at heffect
    exact exec_of_effect (by simp) (by simp) hs heffect hs.2
  · have hbad : (s.restore.errorSeen || st == .error) = true := hbad
    rw [takeRestoreRead_last k st data (by exact hphase) (by exact hcount), Restore.takeRead_eq k st data (by exact habort),
      if_neg (by simp [habort]), if_pos (by exact hbad)] at heffect
    simp only [freeIdent_restore, hbad, hcount] at heffect
    exact exec_of_effect (by simp) (by simp) hs heffect hs.2

/-! ### The checks of the record in hand -/

/-- The image lines of the record in hand. -/
theorem handImage_eq (v : Vector (Option Line) 5) : (v.toList.drop 1).map (fun l => l.getD zeroLine) =
    ([1, 2, 3, 4] : List (Fin 5)).map (fun p => v[p].getD zeroLine) := by
  rcases v with ⟨⟨l⟩, hl⟩
  match l, hl with
  | [_, _, _, _, _], _ => rfl

theorem headerCheckOk_iff (h : Line) :
    headerCheckOk h = true ↔ BitVec.ofNat 32 (fieldAt h 60 4) = journalCrc (bytesAt h 0 60) := by simp [headerCheckOk]

/-- Check 2: a known kind, EPOCH_MARK exactly at the markers of the index (R110). -/
theorem kindOk_iff (h : Line) (index : List IndexEntry) (cursor : Seq) : kindOk h index cursor = true ↔
    (headerKind h = 1 ∨ headerKind h = 2 ∨ headerKind h = 3) ∧ (headerKind h = 2 ↔ ∃ e ∈ index, e.marker = some cursor) := by
  have hany : index.any (fun e => e.marker == some cursor) = true ↔ ∃ e ∈ index, e.marker = some cursor := by simp
  unfold kindOk
  generalize index.any (fun e => e.marker == some cursor) = marked at *
  rw [← hany]
  split
  · rename_i hk; simp [hk]
  · rename_i hk; simp [hk]
  · rename_i hk; simp [hk]
  · rename_i h1 h3 h2
    simp only [Bool.false_eq_true, false_iff]
    rintro ⟨hk | hk | hk, -⟩
    · exact h1 hk
    · exact h2 hk
    · exact h3 hk

/-- Check 4: the epoch of the record is that of the entry that holds the cursor (R110). -/
theorem ownedBy_iff (h : Line) (o : Option IndexEntry) : o.all (fun e => headerEpoch h != e.number) = false ↔
    ∃ e, o = some e ∧ headerEpoch h = e.number := by
  cases o <;> simp

/-- Check 5: the image CRC of a PRE_IMAGE (R110). -/
theorem imageOk_iff (h : Line) (image : List Line) : (headerKind h == 1 && headerImageCrc h != imageCrc image) = false ↔
    (headerKind h = 1 → headerImageCrc h = imageCrc image) := by
  by_cases hk : headerKind h = 1 <;> simp [hk]

section Record

variable {j : Journal} {index : List IndexEntry} {cursor : Seq} {h : Line} {image : List Line}

theorem recordFault_seal (hcheck : headerCheckOk h = false) : recordFault j index cursor h image = some .header := by
  simp [recordFault, hcheck]

theorem recordFault_kind (hcheck : headerCheckOk h = true) (hkind : kindOk h index cursor = false) :
    recordFault j index cursor h image = some .header := by simp [recordFault, hcheck, hkind]

theorem recordFault_sequence (hcheck : headerCheckOk h = true) (hkind : kindOk h index cursor = true)
    (hsequence : headerSequence h ≠ cursor) : recordFault j index cursor h image = some .sequence := by
  simp [recordFault, hcheck, hkind, hsequence]

theorem recordFault_epoch (hcheck : headerCheckOk h = true) (hkind : kindOk h index cursor = true)
    (hsequence : headerSequence h = cursor) (hepoch : (entryHolding j index cursor).all (fun e => headerEpoch h != e.number) = true) :
    recordFault j index cursor h image = some .epoch := by
  simp [recordFault, hcheck, hkind, hsequence, hepoch]

theorem recordFault_last (hcheck : headerCheckOk h = true) (hkind : kindOk h index cursor = true)
    (hsequence : headerSequence h = cursor) (hepoch : (entryHolding j index cursor).all (fun e => headerEpoch h != e.number) = false) :
    recordFault j index cursor h image =
      if headerKind h == 1 && headerImageCrc h != imageCrc image then some .image else none := by
  simp [recordFault, hcheck, hkind, hsequence, hepoch]

end Record

/-- The header of the record in hand. -/
def State.handHeader (s : State) : Line := (s.restore.hand[0]).getD zeroLine

/-- The first check of R110 that the record in hand fails. -/
def State.handFault (s : State) : Option RestoreReason :=
  recordFault s.journal s.epoch.index s.restore.cursor s.handHeader
    (([1, 2, 3, 4] : List (Fin 5)).map (fun p => s.restore.hand[p].getD zeroLine))

/-- The record in hand faults, is written back, or is finished (R110 to R113). -/
theorem judgeRecord_eq (s : State) : judgeRecord s =
    match s.handFault with
    | some reason => { s with restore.report := some (.fault reason) }
    | none =>
      if headerKind s.handHeader = 1 then
        { s with restore.phase := .writingBack, restore.awaited := 4, restore.errorSeen := false, restore.issued := false }
      else finishRecord s := by
  unfold judgeRecord State.handFault State.handHeader
  simp only [handImage_eq]
  rfl

theorem judgeRecord_fault {s : State} {reason : RestoreReason} (h : s.handFault = some reason) :
    judgeRecord s = { s with restore.report := some (.fault reason) } := by rw [judgeRecord_eq, h]

theorem judgeRecord_preImage {s : State} (h : s.handFault = none) (hkind : headerKind s.handHeader = 1) : judgeRecord s =
    { s with restore.phase := .writingBack, restore.awaited := 4, restore.errorSeen := false, restore.issued := false } := by
  simp only [judgeRecord_eq, h, if_pos hkind]

theorem judgeRecord_other {s : State} (h : s.handFault = none) (hkind : headerKind s.handHeader ≠ 1) :
    judgeRecord s = finishRecord s := by simp only [judgeRecord_eq, h, if_neg hkind]

/-! ### The end of a record -/

/-- A pending abort stops the walk at the end of the record (R119). -/
theorem finishRecord_abort {s : State} (h : s.restore.abortPending = true) :
    finishRecord s = { s with restore.phase := .idle, restore.report := some .stop } := by
  simp [finishRecord, h, reportRestore]

/-- The walk ends at the floor (R113). -/
theorem finishRecord_floor {s : State} (habort : s.restore.abortPending = false) (hfloor : s.restore.cursor = s.restore.floor) :
    finishRecord s = { s with restore.phase := .idle, restore.report := some .walkEnd } := by
  simp [finishRecord, habort, hfloor, reportRestore]

/-- Above the floor the next older record is read (R113, R109). -/
theorem finishRecord_next {s : State} (habort : s.restore.abortPending = false) (hfloor : s.restore.cursor ≠ s.restore.floor) :
    finishRecord s =
      { s with
        restore := { s.restore with
          phase := .reading, cursor := s.restore.cursor - 1, hand := Vector.replicate 5 none, awaited := 5, errorSeen := false,
          issued := false }
        dlink.restore := s.dlink.restore ++ ([0, 1, 2, 3, 4] : List (Fin 5)).map (fun p =>
          ⟨.read, s.journal.base + BitVec.ofNat 48 ((s.restore.cursor - 1).toNat % s.journal.slots * 320) +
            BitVec.ofNat 48 (64 * p.val), 64, [], [], .restoreRead p⟩) } := by
  unfold finishRecord
  rw [if_neg (by simp [habort]), if_neg hfloor]
  rfl

/-- Settles O27: the checks are those of `recordFault`, in its order, and then `judgeRecord` says what follows. -/
theorem recordInHandIsChecked : Obligations.RecordInHandIsChecked := by
  intro s id k data hs horigin hphase habort hcount herror hand header image cursor sealed placed numbered owned whole after faulted answer
  generalize hv : ({ freeIdent s id with restore := { s.restore with hand := hand, awaited := s.restore.awaited - 1 } } : State) = v
  have heffect := effectOf_restoreReadAnswer .ok data horigin
  rw [takeRestoreRead_last k .ok data (by exact hphase) (by exact hcount), Restore.takeRead_ok k data (by exact habort),
    if_neg (by simp [habort]), if_neg (by simp [herror])] at heffect
  have heffect : effectOf (.restoreReadAnswer id .ok data) s = judgeRecord v := hv ▸ heffect
  have hheader : v.handHeader = header := by rw [← hv]; rfl
  have hfault : v.handFault = recordFault s.journal s.epoch.index cursor header image := by rw [← hv]; rfl
  have hseal : headerCheckOk header = true ↔ sealed := headerCheckOk_iff header
  have hkind : kindOk header s.epoch.index cursor = true ↔ placed := kindOk_iff header _ cursor
  have howned : _ ↔ owned := ownedBy_iff header (entryHolding s.journal s.epoch.index cursor)
  have hwhole : _ ↔ whole := imageOk_iff header image
  have hfaulted {reason : RestoreReason} (h : recordFault s.journal s.epoch.index cursor header image = some reason) :
      answer = faulted reason := by
    refine exec_of_effect (by simp) (by simp) hs (heffect.trans (judgeRecord_fault (hfault.trans h))) (by rw [← hv]; exact hs.2)
      |>.trans ?_
    rw [← hv, hcount]
    rfl
  have hsound (h1 : sealed) (h2 : placed) (h3 : numbered) (h4 : owned) (h5 : whole) : v.handFault = none := by
    rw [hfault, recordFault_last (hseal.2 h1) (hkind.2 h2) h3 (howned.2 h4), hwhole.2 h5]
    rfl
  have hother (h1 : sealed) (h2 : placed) (h3 : numbered) (h4 : owned) (h5 : headerKind header ≠ 1) : judgeRecord v = finishRecord v :=
    judgeRecord_other (hsound h1 h2 h3 h4 fun h => absurd h h5) (hheader ▸ h5)
  refine ⟨fun h1 => hfaulted (recordFault_seal (Bool.eq_false_iff.2 (mt hseal.1 h1))),
    fun h1 h2 => hfaulted (recordFault_kind (hseal.2 h1) (Bool.eq_false_iff.2 (mt hkind.1 h2))),
    fun h1 h2 h3 => hfaulted (recordFault_sequence (hseal.2 h1) (hkind.2 h2) h3),
    fun h1 h2 h3 h4 => hfaulted (recordFault_epoch (hseal.2 h1) (hkind.2 h2) h3 (Bool.not_eq_false _ ▸ mt howned.1 h4)),
    fun h1 h2 h3 h4 h5 => hfaulted ?_, fun h1 h2 h3 h4 h5 h6 => ?_, fun h1 h2 h3 h4 h5 hfloor => ?_, fun h1 h2 h3 h4 h5 hfloor => ?_⟩
  · rw [recordFault_last (hseal.2 h1) (hkind.2 h2) h3 (howned.2 h4), if_pos (Bool.not_eq_false _ ▸ mt hwhole.1 h5)]
  · have hjudge := judgeRecord_preImage (hsound h1 h2 h3 h4 h5) (hheader ▸ h6)
    refine (exec_of_effect (by simp) (by simp) hs (heffect.trans hjudge) (by rw [← hv]; exact hs.2)).trans ?_
    rw [← hv]
    simp only [after, ← herror]
    rfl
  · have hfinish := finishRecord_floor (s := v) (by rw [← hv]; exact habort) (by rw [← hv]; exact hfloor)
    refine (exec_of_effect (by simp) (by simp) hs (heffect.trans ((hother h1 h2 h3 h4 h5).trans hfinish))
      (by rw [← hv]; exact hs.2)).trans ?_
    rw [← hv, hcount]
    rfl
  · have hfinish := finishRecord_next (s := v) (by rw [← hv]; exact habort) (by rw [← hv]; exact hfloor)
    refine (exec_of_effect (by simp) (by simp) hs (heffect.trans ((hother h1 h2 h3 h4 h5).trans hfinish))
      (by rw [← hv]; exact hs.2)).trans ?_
    rw [← hv, ← hphase]
    rfl

/-! ### Answers to write-backs -/

theorem takeWriteBack_count {s : State} (st : DStatus) (hphase : s.restore.phase = .writingBack) (hcount : 2 ≤ s.restore.awaited) :
    takeWriteBack s st =
      { s with restore.awaited := s.restore.awaited - 1, restore.errorSeen := s.restore.errorSeen || st == .error } := by
  have hmore : s.restore.awaited - 1 ≠ 0 := by omega
  simp only [takeWriteBack, hphase, ne_eq, not_true_eq_false, if_false, if_pos hmore]

/-- The fourth answer acts: with an error the record has a fault, and without one it is applied and finished (R111, R113). -/
theorem takeWriteBack_last {s : State} (st : DStatus) (hphase : s.restore.phase = .writingBack) (hcount : s.restore.awaited = 1) :
    takeWriteBack s st =
      if s.restore.errorSeen || st == .error then
        { s with restore.awaited := 0, restore.errorSeen := true, restore.report := some (.fault .writeError) }
      else finishRecord { s with restore.awaited := 0, restore.applied := s.restore.applied + 1 } := by
  simp only [takeWriteBack, hphase, hcount, ne_eq, not_true_eq_false, if_false]
  by_cases hbad : (s.restore.errorSeen || st == .error) = true
  · simp only [hbad, if_true]
    rfl
  · have hclear : s.restore.errorSeen = false := by
      cases h : s.restore.errorSeen with
      | false => rfl
      | true => exact absurd (by rw [h]; rfl) hbad
    rw [if_neg hbad, if_neg hbad, Bool.eq_false_iff.2 hbad, ← hclear]

/-- Settles O28, by `takeWriteBack_last` and the end of a record. -/
theorem writeBackIsTaken : Obligations.WriteBackIsTaken := by
  intro s id st hs horigin hphase bad cursor after answer
  have heffect := effectOf_writeBackAnswer st horigin
  have hlast (hcount : s.restore.awaited = 1) := heffect.trans (takeWriteBack_last (s := freeIdent s id) st hphase hcount)
  refine ⟨fun hcount => ?_, fun hcount hbad => ?_, fun hcount hbad habort hfloor => ?_, fun hcount hbad habort hfloor => ?_⟩
  · rw [takeWriteBack_count st (by exact hphase) (by exact hcount)] at heffect
    exact exec_of_effect (by simp) (by simp) hs heffect hs.2
  · have hbad : (s.restore.errorSeen || st == .error) = true := hbad
    exact exec_of_effect (by simp) (by simp) hs ((hlast hcount).trans (if_pos hbad)) hs.2
  · have hbad : (s.restore.errorSeen || st == .error) ≠ true := Bool.eq_false_iff.1 hbad
    exact exec_of_effect (by simp) (by simp) hs
      (((hlast hcount).trans (if_neg hbad)).trans (finishRecord_floor (by exact habort) (by exact hfloor))) hs.2
  · have hclear : s.restore.errorSeen = false := (Bool.or_eq_false_iff.1 hbad).1
    have hbad : (s.restore.errorSeen || st == .error) ≠ true := Bool.eq_false_iff.1 hbad
    refine (exec_of_effect (by simp) (by simp) hs
      (((hlast hcount).trans (if_neg hbad)).trans (finishRecord_next (by exact habort) (by exact hfloor))) hs.2).trans ?_
    rw [← hclear]
    rfl

/-- Settles O29: a pending abort discards the answers in READING, and stops at the end of a record. -/
theorem pendingAbortStopsTheWalk : Obligations.PendingAbortStopsTheWalk := by
  intro s id hs habort after
  refine ⟨fun k st data horigin hphase => ⟨fun hcount => ?_, fun hcount => ?_⟩, fun horigin hphase hcount herror => ?_⟩
  · have heffect := effectOf_restoreReadAnswer st data horigin
    rw [takeRestoreRead_count k st data (by exact hphase) (by exact hcount),
      Restore.takeRead_aborting k st data (by exact habort)] at heffect
    exact exec_of_effect (by simp) (by simp) hs heffect hs.2
  · have heffect := effectOf_restoreReadAnswer st data horigin
    rw [takeRestoreRead_last k st data (by exact hphase) (by exact hcount),
      Restore.takeRead_aborting k st data (by exact habort), if_pos (by exact habort)] at heffect
    refine (exec_of_effect (by simp) (by simp) hs heffect hs.2).trans ?_
    simp only [freeIdent_restore, hcount]
    rfl
  · have heffect := effectOf_writeBackAnswer .ok horigin
    have hsound : ¬ (s.restore.errorSeen || DStatus.ok == .error) = true := by simp [herror]
    rw [takeWriteBack_last .ok (by exact hphase) (by exact hcount), if_neg (by exact hsound),
      finishRecord_abort (by exact habort)] at heffect
    exact exec_of_effect (by simp) (by simp) hs heffect hs.2

/-! ### The end of the walk -/

/-- The end of a walk is the completion of the rollback (R114). -/
theorem takeWalkEnd_restoring {s : State} (hreport : s.restore.report = some .walkEnd) (hengine : s.epoch.engine = .restoring) :
    takeWalkEnd s = completeRollback { s with restore.report := none } := by simp [takeWalkEnd, hreport, hengine]

/-- Settles O30, by `completeRollback_frame` and `completeRollback_handed`. -/
theorem walkEndCompletesTheRollback : Obligations.WalkEndCompletesTheRollback := by
  intro s target older newer e hs hsound hreport hengine htarget hindex hnumber cut
  obtain ⟨-, -, -, hlength, hnumbers, -⟩ := hsound
  subst hnumber
  have hsplit := olderThan_eq (hindex ▸ hnumbers)
  rw [← hindex] at hsplit
  obtain ⟨holder, hentry⟩ := hsplit
  generalize hv : ({ s with restore.report := none } : State) = v
  have heffect : effectOf .walkEnd s = completeRollback v := hv ▸ takeWalkEnd_restoring hreport hengine
  have vtarget : v.epoch.target = some e.number := by rw [← hv]; exact htarget
  have ventry : v.epoch.entry? e.number = some e := by rw [← hv]; exact hentry
  have vindex : v.epoch.index = s.epoch.index := by rw [← hv]
  have vcurrent : v.epoch.current = s.epoch.current := by rw [← hv]
  have hfresh : FreshNumber s.epoch.current (nextNumber s.epoch.current (older.map (fun x => x.number))) older := by
    refine commit_number (s := { s with epoch.index := older }) ?_
    have hle : older.length ≤ s.epoch.index.length := by rw [hindex]; simp
    show older.length < 1000
    omega
  have hframe := completeRollback_frame vtarget ventry
  have hhanded := completeRollback_handed vtarget ventry
  simp only [vindex, holder, vcurrent] at hframe hhanded
  generalize nextNumber s.epoch.current (older.map (fun x => x.number)) = number at *
  generalize completeRollback v = u at *
  generalize u.notice = n, u.dlink.report = p at hframe
  subst hframe hv
  refine ⟨_, number, exec_settled (by simp) (by simp) hs heffect, hfresh, ?_, ?_⟩
  · rw [settle_of_asked rfl, ← hs.2]
  · rw [settle_frame]
    exact hhanded.congr rfl rfl rfl rfl rfl

/-! ### Restore faults and stops -/

/-- A restore fault posts RESTORE_FAULT and breaks the engine (R115). -/
theorem takeRestoreFault_restoring {s : State} {reason : RestoreReason} (hreport : s.restore.report = some (.fault reason))
    (hengine : s.epoch.engine = .restoring) : takeRestoreFault s =
      restoreFaultEffect { s with restore.report := none } reason := by simp [takeRestoreFault, hreport, hengine]

/-- A break with a cause that allows a retry keeps the target (R4). -/
theorem enterBroken_retryable {c : BrokenCause} (s : State) (h : (Engine.broken c).brokenRetryable = true) :
    ∃ n p, enterBroken s c =
      { s with epoch.engine := .broken c, hold.passes := s.hold.passes + 1, status.asked := true, notice := n, dlink.report := p } := by
  have hframe := enterBroken_frame s c
  rw [if_pos h] at hframe
  exact ⟨_, _, hframe⟩

/-- What a restore fault changes, and its two notices (R115, R4). -/
theorem restoreFaultEffect_spec {s : State} {target : EpochNo} (reason : RestoreReason) (htarget : s.epoch.target = some target) :
    (∃ n p, restoreFaultEffect s reason =
      { s with restore.phase := .idle, epoch.engine := .broken .restoreFault, hold.passes := s.hold.passes + 1,
               status.asked := true, notice := n, dlink.report := p }) ∧
    Handed s (restoreFaultEffect s reason) [(.restoreFault reason s.restore.cursor target s.restore.applied, s.epoch.current),
      (.epochBroken .restoreFault s.epoch.current, s.epoch.current)] := by
  generalize hb : NoticeBody.restoreFault reason s.restore.cursor target s.restore.applied = b
  have hfault : restoreFaultEffect s reason = enterBroken (post { s with restore.phase := .idle } b) .restoreFault := by
    simp only [restoreFaultEffect, htarget, ← hb]
    rfl
  have hposted : Handed s (post { s with restore.phase := .idle } b) [(b, s.epoch.current)] := handed_post_of _ rfl rfl rfl rfl
  obtain ⟨n, p, hpost⟩ : ∃ n p, post { s with restore.phase := .idle } b =
      { s with restore.phase := .idle, notice := n, dlink.report := p } := ⟨_, _, post_frame _ _⟩
  rw [hpost] at hposted hfault
  obtain ⟨n', p', hbroken⟩ := enterBroken_retryable (c := .restoreFault)
    { s with restore.phase := .idle, notice := n, dlink.report := p } rfl
  rw [hfault]
  exact ⟨⟨n', p', hbroken⟩, hposted.trans (enterBroken_handed _ _) rfl⟩

/-- The stop that follows an abort breaks the engine (R119). -/
theorem takeRestoreStop_restoring {s : State} (hreport : s.restore.report = some .stop) (hengine : s.epoch.engine = .restoring) :
    takeRestoreStop s = enterBroken { s with restore.report := none } .aborted := by simp [takeRestoreStop, hreport, hengine]

/-- Settles O31: both are a break of the engine that keeps the target. -/
theorem restoreFaultAndStopBreakTheEngine : Obligations.RestoreFaultAndStopBreakTheEngine := by
  intro s target hs hengine htarget
  refine ⟨fun reason hreport => ?_, fun hreport => ?_⟩
  · have heffect : effectOf .restoreFaultTaken s = restoreFaultEffect { s with restore.report := none } reason :=
      takeRestoreFault_restoring hreport hengine
    obtain ⟨⟨n, p, hframe⟩, hhanded⟩ := restoreFaultEffect_spec (s := { s with restore.report := none }) reason htarget
    rw [hframe] at heffect hhanded
    refine ⟨_, exec_settled (by simp) (by simp) hs heffect, ?_, ?_⟩
    · rw [settle_of_asked rfl, ← hs.2]
    · rw [settle_frame]
      exact hhanded.congr rfl rfl rfl rfl rfl
  · have heffect : effectOf .restoreStop s = _ := takeRestoreStop_restoring hreport hengine
    have hhanded := enterBroken_handed { s with restore.report := none } .aborted
    obtain ⟨n, p, hbroken⟩ := enterBroken_retryable (c := .aborted) { s with restore.report := none } rfl
    rw [hbroken] at heffect hhanded
    refine ⟨_, exec_settled (by simp) (by simp) hs heffect, ?_, ?_⟩
    · rw [settle_of_asked rfl, ← hs.2]
    · rw [settle_frame]
      exact hhanded.congr rfl rfl rfl rfl rfl

end Sys2Proof.Machine
end

section
/-! PROOF. Notices and the status block (O32 to O34): the answers to ring writes (R169, R167, R175, R176, R178), and the status
writer (R156 to R161). -/

namespace Sys2Proof.Machine

/-! ### The test for a ring write -/

theorem tryRingWrite_of_not_ready {s : State} (h : s.notice.buffer = [] ∨ s.notice.ringReady = false) : tryRingWrite s = s := by
  unfold tryRingWrite
  split
  · rfl
  · rename_i n rest hbuffer
    rw [hbuffer] at h
    rw [h.resolve_left (by simp)]
    rfl

/-- A second test right after the first writes nothing more (R169). -/
theorem tryRingWrite_idem (s : State) : tryRingWrite (tryRingWrite s) = tryRingWrite s := by
  cases hbuffer : s.notice.buffer with
  | nil => rw [tryRingWrite_of_not_ready (s := s) (.inl hbuffer), tryRingWrite_of_not_ready (.inl hbuffer)]
  | cons n rest =>
    rw [tryRingWrite_cons hbuffer]
    by_cases hready : s.notice.ringReady = true
    · rw [if_pos hready]
      exact tryRingWrite_of_not_ready (.inr (by simp [NoticeUnit.ringReady]))
    · rw [if_neg hready]
      exact tryRingWrite_of_not_ready (.inr (Bool.eq_false_iff.2 hready))

/-! ### Losses -/

/-- The state once the losses are reported, but for the ring write this may begin (R167). -/
def State.overrunReported (s : State) : State :=
  { s with notice := { s.notice with
      buffer := s.notice.buffer ++ (if s.notice.overrunCount = 0 then []
        else [⟨.noticeOverrun s.notice.overrunCount, s.notice.nextSeq, s.mgmt.time, s.epoch.current⟩])
      nextSeq := (if s.notice.overrunCount = 0 then s.notice.nextSeq else s.notice.nextSeq + 1)
      overrunCount := 0 } }

/-- Losses are reported in the room the buffer has gained (R167). -/
theorem reportOverrun_room {s : State} (hroom : s.notice.buffer.length < 16) :
    reportOverrun s = if s.notice.overrunCount = 0 then s.overrunReported else tryRingWrite s.overrunReported := by
  rw [reportOverrun_eq]
  unfold State.overrunReported
  by_cases hlost : s.notice.overrunCount = 0
  · simp only [if_pos hlost, List.append_nil]
  · simp only [if_neg hlost]
    exact if_pos hroom

theorem tryRingWrite_reportOverrun {s : State} (hroom : s.notice.buffer.length < 16) :
    tryRingWrite (reportOverrun s) = tryRingWrite s.overrunReported := by
  rw [reportOverrun_room hroom]
  split
  · rfl
  · exact tryRingWrite_idem _

/-! ### A notice in the ring -/

/-- The notice unit after its oldest notice is written (R169, R175). -/
theorem noticeWritten_eq {u : NoticeUnit} {n : Notice} {rest : List Notice} (p : Seq) (hbuffer : u.buffer = n :: rest) :
    noticeWritten u p =
      { u with
        buffer := rest, inFlight := none, writePos := u.writePos + 1,
        lastUrgent := (if u.urgent.getLsbD n.body.code then some p else u.lastUrgent),
        flush := (if (u.writePos + 1 - u.ackPos).toNat = 1 ∧ u.tFlush ≠ 0 then .running u.tFlush else u.flush) } := by
  unfold noticeWritten startFlush
  simp only [hbuffer, List.head?_cons, Option.any_some, List.drop_succ_cons, List.drop_zero, NoticeUnit.isUrgent, NoticeUnit.unacked]
  split <;> rfl

/-- ATTN's condition while the path is not stopped (R174). -/
theorem attnCondition_iff {u : NoticeUnit} (hpath : u.pathStopped = false) : u.attnCondition = true ↔
    0 < u.unacked ∧ (u.threshold ≤ u.unacked ∨ u.flush = .expired ∨ ∃ x, u.lastUrgent = some x ∧ (x - u.ackPos).toNat < u.unacked) := by
  have hurgent : u.urgentUnread = true ↔ ∃ x, u.lastUrgent = some x ∧ (x - u.ackPos).toNat < u.unacked := by
    simp [NoticeUnit.urgentUnread, Option.any_eq_true]
  simp only [NoticeUnit.attnCondition, hpath, Bool.false_or, Bool.and_eq_true, Bool.or_eq_true, decide_eq_true_eq, hurgent,
    beq_iff_eq, or_assoc]

/-- A configured ring that is not stopped and writes nothing is ready while it has room (R169). -/
theorem ringReady_iff {u : NoticeUnit} (hconfigured : u.configured = true) (hpath : u.pathStopped = false) (hidle : u.inFlight = none) :
    u.ringReady = true ↔ u.unacked < u.size := by
  simp [NoticeUnit.ringReady, hconfigured, hpath, hidle]

/-- The answer to a ring write, OK (R169). -/
theorem takeNoticeWrite_ok {s : State} {p : Seq} (hflight : s.notice.inFlight = some p) (hconfigured : s.notice.configured = true) :
    takeNoticeWrite s .ok = updateAttn (tryRingWrite (reportOverrun { s with notice := noticeWritten s.notice p })) := by
  simp [takeNoticeWrite, hflight, hconfigured]

/-- Settles O32: the notice leaves the buffer, losses take its room, and the test for the next write is made once more. -/
theorem noticeIsWritten : Obligations.NoticeIsWritten := by
  intro s id p n rest hs hsound horigin hflight hconfigured hpath hbuffer u lost overrun position count last flush
  obtain ⟨hlength, -⟩ := hsound
  have hroom : rest.length < 16 := by rw [hbuffer, List.length_cons] at hlength; omega
  have heffect := effectOf_noticeWriteAnswer .ok horigin
  rw [takeNoticeWrite_ok (by exact hflight) (by exact hconfigured), noticeWritten_eq p (by exact hbuffer),
    tryRingWrite_reportOverrun (by exact hroom)] at heffect
  generalize hv : State.overrunReported _ = v at heffect
  have vnotice : v.notice = { u with
      buffer := rest ++ overrun, nextSeq := (if lost = 0 then u.nextSeq else u.nextSeq + 1), overrunCount := 0,
      writePos := position, lastUrgent := last, flush := flush, inFlight := none } := by rw [← hv]; rfl
  have vreport : v.dlink.report = s.dlink.report := by rw [← hv]; rfl
  have vready : v.notice.ringReady = true ↔ count < u.size := by
    rw [vnotice]
    exact ringReady_iff hconfigured hpath rfl
  have hattn : (tryRingWrite v).notice.attnCondition = true ↔ 0 < count ∧ (u.threshold ≤ count ∨ flush = .expired ∨
      ∃ x, last = some x ∧ (x - u.ackPos).toNat < count) := by
    rw [tryRingWrite_frame, vnotice]
    exact attnCondition_iff hpath
  refine ⟨updateAttn (tryRingWrite v), exec_of_effect (by simp) (by simp) hs heffect ?_, ?_, hattn, fun hstop => ?_,
    fun m more hnext hfree => ?_⟩
  · rw [updateAttn_status, tryRingWrite_frame, ← hv]; exact hs.2
  · have hframe := tryRingWrite_frame v
    generalize (tryRingWrite v).notice.inFlight = flight, (tryRingWrite v).dlink.report = writes at hframe
    rw [hframe, ← hv]
    rfl
  · have hidle : tryRingWrite v = v := tryRingWrite_of_not_ready
      (hstop.imp (fun h => by rw [vnotice]; exact h) fun h => Bool.eq_false_iff.2 (mt vready.1 (Nat.not_lt.2 h)))
    rw [hidle]
    exact ⟨by rw [updateAttn_notice, vnotice], vreport⟩
  · have hwrite := tryRingWrite_cons (s := v) (n := m) (rest := more) (by rw [vnotice]; exact hnext)
    rw [if_pos (vready.2 hfree)] at hwrite
    rw [hwrite]
    refine ⟨by rw [updateAttn_notice]; show some v.notice.writePos = _; rw [vnotice], ?_⟩
    show v.dlink.report ++ [noticeWrite v.notice m v.notice.writePos] = _
    rw [vreport, vnotice]
    rfl

/-! ### Ring writes that fail, or whose ring is gone -/

/-- An error stops a configured ring (R176). -/
theorem takeNoticeWrite_error_ring {s : State} {p : Seq} (hflight : s.notice.inFlight = some p)
    (hconfigured : s.notice.configured = true) : takeNoticeWrite s .error =
      updateAttn { s with notice.inFlight := none, notice.pathStopped := true, mgmt.fault.noticePath := true } := by
  unfold takeNoticeWrite
  rw [hflight]
  exact if_pos hconfigured

/-- An error for a ring that has been cleared sets the fault alone (R178). -/
theorem takeNoticeWrite_error_cleared {s : State} {p : Seq} (hflight : s.notice.inFlight = some p)
    (hcleared : s.notice.configured = false) :
    takeNoticeWrite s .error = { s with notice.inFlight := none, mgmt.fault.noticePath := true } := by
  unfold takeNoticeWrite
  rw [hflight]
  exact if_neg (Bool.eq_false_iff.1 hcleared)

/-- The notice of a ring that has been cleared leaves the buffer, and losses are reported in its room (R178, R167). -/
theorem takeNoticeWrite_ok_cleared {s : State} {p : Seq} (hflight : s.notice.inFlight = some p)
    (hcleared : s.notice.configured = false) (hlength : s.notice.buffer.length ≤ 16) : takeNoticeWrite s .ok =
      { s with notice.buffer := s.notice.buffer.drop 1, notice.inFlight := none : State }.overrunReported := by
  have hanswer : takeNoticeWrite s .ok =
      reportOverrun { s with notice.buffer := s.notice.buffer.drop 1, notice.inFlight := none } := by
    unfold takeNoticeWrite
    rw [hflight]
    exact if_neg (Bool.eq_false_iff.1 hcleared)
  rw [hanswer, reportOverrun_room (by simp only [List.length_drop]; omega),
    tryRingWrite_of_not_ready (.inr (by simp [State.overrunReported, NoticeUnit.ringReady, hcleared])), ite_self]

/-- Settles O33: with a ring an error stops the path; without one the notice leaves the buffer, and no write can begin. -/
theorem noticePathFaultStopsTheRing : Obligations.NoticePathFaultStopsTheRing := by
  intro s id p hs horigin hflight freed lost
  refine ⟨fun hconfigured => ?_, fun hcleared => ?_, fun hcleared hsound => ?_⟩
  · have heffect := (effectOf_noticeWriteAnswer .error horigin).trans (takeNoticeWrite_error_ring (by exact hflight) hconfigured)
    exact exec_of_effect (by simp) (by simp) hs heffect hs.2
  · have heffect := (effectOf_noticeWriteAnswer .error horigin).trans (takeNoticeWrite_error_cleared (by exact hflight) hcleared)
    exact exec_of_effect (by simp) (by simp) hs heffect hs.2
  · obtain ⟨hlength, -⟩ := hsound
    have heffect := (effectOf_noticeWriteAnswer .ok horigin).trans (takeNoticeWrite_ok_cleared (by exact hflight) hcleared hlength)
    exact exec_of_effect (by simp) (by simp) hs heffect hs.2

/-! ### The status writer -/

theorem takeStatusRequest_begin {s : State} {n : Nat} (hrequests : s.status.requests = n + 1) (hdevice : s.mgmt.device ≠ .offline)
    (hidle : s.status.inFlight = none) : takeStatusRequest s = beginStatus { s with status.requests := n } := by
  simp [takeStatusRequest, hrequests, hdevice, hidle]

theorem takeStatusRequest_pending {s : State} {n : Nat} (hrequests : s.status.requests = n + 1) (hdevice : s.mgmt.device ≠ .offline)
    (hbusy : s.status.inFlight.isSome = true) :
    takeStatusRequest s = { s with status.requests := n, status.updatePending := true } := by
  simp [takeStatusRequest, hrequests, hdevice, hbusy]

theorem takeStatusLine_next {s : State} {w : StatusWrite} {k : Fin 4} (hflight : s.status.inFlight = some w)
    (hk : k.val = w.line.val + 1) (hgo : w.stopping = false) :
    takeStatusLine s .ok = readyStatusLine { s with status.inFlight := some { w with line := k } } { w with line := k } := by
  have hnext : nextLine w.line = k := Fin.ext (by have := k.isLt; simp only [nextLine]; omega)
  have hmore : ¬ (w.stopping = true ∨ w.line = 3) := by
    rw [hgo]
    rintro (h | h)
    · cases h
    · rw [h] at hk
      have := k.isLt
      simp at hk
      omega
  simp only [takeStatusLine, hflight, if_neg hmore, hnext]

theorem takeStatusLine_last {s : State} {w : StatusWrite} (hflight : s.status.inFlight = some w)
    (hlast : w.stopping = true ∨ w.line = 3) : takeStatusLine s .ok = endStatus s := by
  simp only [takeStatusLine, hflight, if_pos hlast]

theorem takeStatusLine_error {s : State} {w : StatusWrite} (hflight : s.status.inFlight = some w) :
    takeStatusLine s .error = endStatus { s with mgmt.fault.statusPath := true } := by
  simp only [takeStatusLine, hflight]

theorem beginStatus_asked (s : State) : (beginStatus s).status.asked = s.status.asked := rfl

theorem endStatus_asked (s : State) : (endStatus s).status.asked = s.status.asked := by
  unfold endStatus
  simp only
  split <;> rfl

/-- Settles O34: a request begins a write or is pending, and a line's answer goes on to the next line or ends the write. -/
theorem statusBlockIsWritten : Obligations.StatusBlockIsWritten := by
  intro s hs sequence ready begun ended
  refine ⟨fun n hrequests hdevice => ⟨fun hidle => ?_, fun hbusy => ?_⟩, fun id w horigin hflight => ?_⟩
  · exact exec_of_effect (c := .statusUpdateRequest) (by simp) (by simp) hs (takeStatusRequest_begin hrequests hdevice hidle) hs.2
  · exact exec_of_effect (c := .statusUpdateRequest) (by simp) (by simp) hs (takeStatusRequest_pending hrequests hdevice hbusy) hs.2
  intro freed
  refine ⟨fun k hk hgo => ?_, fun hlast => ?_, ?_⟩
  · have heffect := (effectOf_statusLineAnswer .ok horigin).trans (takeStatusLine_next (by exact hflight) hk hgo)
    exact exec_of_effect (by simp) (by simp) hs heffect hs.2
  · have heffect := (effectOf_statusLineAnswer .ok horigin).trans (takeStatusLine_last (by exact hflight) hlast)
    exact exec_of_effect (by simp) (by simp) hs heffect ((endStatus_asked (freeIdent s id)).trans hs.2)
  · have heffect := (effectOf_statusLineAnswer .error horigin).trans (takeStatusLine_error (by exact hflight))
    exact exec_of_effect (by simp) (by simp) hs heffect
      ((endStatus_asked { freeIdent s id with mgmt.fault.statusPath := true }).trans hs.2)

end Sys2Proof.Machine
end

section
/-! PROOF. The hold queue and the timers (O35 to O37): expiries (R92, R93), passes of re-evaluation (R89, R90, R98), and the two
timers that run out (R14, R175). -/

namespace Sys2Proof.Machine

/-! ### Held requests by identity -/

/-- With the identities of the queue apart, an identity finds its entry. -/
theorem find?_id_of_mem {entries : List HeldEntry} {e : HeldEntry} (hmem : e ∈ entries)
    (hnodup : (entries.map (fun x => x.request.id)).Nodup) :
    entries.find? (fun x => x.request.id == e.request.id) = some e := by
  have hsome : (entries.find? (fun x => x.request.id == e.request.id)).isSome = true :=
    List.find?_isSome.2 ⟨e, hmem, beq_self_eq_true _⟩
  obtain ⟨x, hfound⟩ := Option.isSome_iff_exists.1 hsome
  have hid : x.request.id = e.request.id := by simpa using List.find?_some hfound
  rw [hfound, List.inj_on_of_nodup_map hnodup (List.mem_of_find?_eq_some hfound) hmem hid]

/-- The entries that are none of some of the entries are the others, where the identities are apart. -/
theorem filter_apart_ids {entries : List HeldEntry} (p : HeldEntry → Bool) (hnodup : (entries.map (fun x => x.request.id)).Nodup) :
    entries.filter (fun x => (entries.filter p).all (fun e => x.request.id != e.request.id)) = entries.filter (fun x => !p x) := by
  refine List.filter_congr fun x hx => ?_
  rw [Bool.eq_iff_iff, List.all_eq_true, Bool.not_eq_true']
  constructor
  · intro hall
    by_contra hp
    simpa using hall x (List.mem_filter.2 ⟨hx, Bool.not_eq_false _ ▸ hp⟩)
  · intro hp e he
    obtain ⟨hmem, hpe⟩ := List.mem_filter.1 he
    rw [bne_iff_ne]
    intro hid
    rw [List.inj_on_of_nodup_map hnodup hx hmem hid, hpe] at hp
    cases hp

theorem expiryStatus_eq (c : HoldCause) : expiryStatus c = if c = .fence then .fenced else .expired := by cases c <;> rfl

/-! ### Expiries -/

theorem takeHoldExpiry_of_mem {s : State} {e : HeldEntry} (hmem : e ∈ s.hold.entries)
    (hnodup : (s.hold.entries.map (fun x => x.request.id)).Nodup) :
    takeHoldExpiry s e.request.id = if s.expiryDue e then takeExpiry s e else s := by
  simp only [takeHoldExpiry, find?_id_of_mem hmem hnodup]

/-- One expiry that answers its requester (R92). -/
theorem expireWithPass_spec {s : State} {e : HeldEntry} (hout : e.request.id ∈ s.ulink.outstanding) :
    (∃ n p, expireWithPass s e =
      { s with hold.entries := s.hold.entries.filter (fun x => x.request.id != e.request.id), hold.passes := s.hold.passes + 1
               ulink := ⟨s.ulink.outstanding.filter (fun x => x != e.request.id), s.ulink.returned ++
                 [⟨e.request.kind, e.request.id, if e.cause = .fence then .fenced else .expired, []⟩]⟩
               notice := n, dlink.report := p }) ∧
    Handed s (expireWithPass s e) [expiryNotice s.epoch.current e] := by
  obtain ⟨hframe, hhanded⟩ := foldl_expireWithPass [e] s (by simp) (by simpa using hout)
  simp only [List.foldl_cons, List.foldl_nil, List.all_cons, List.all_nil, Bool.and_true, List.length_singleton, List.map_cons,
    List.map_nil, expiryStatus_eq] at hframe hhanded
  exact ⟨⟨_, _, hframe⟩, hhanded⟩

theorem takeExpiry_answers {s : State} {e : HeldEntry} (h : e.cause ≠ .journalFull) : takeExpiry s e = expireWithPass s e := by
  unfold takeExpiry
  cases hcause : e.cause with
  | journalFull => exact absurd hcause h
  | order => rfl
  | slotWait => rfl
  | fence => rfl

theorem takeExpiry_journalFull {s : State} {e : HeldEntry} (h : e.cause = .journalFull) :
    takeExpiry s e = { markExhausted s e with epoch.exhaustions := s.epoch.exhaustions + 1 } := by
  unfold takeExpiry
  rw [h]

theorem takeExhaustion_of_ne {s : State} {n : Nat} (hcount : s.epoch.exhaustions = n + 1) (hengine : s.epoch.engine ≠ .capturing) :
    takeExhaustion s = { s with epoch.exhaustions := n } := by simp [takeExhaustion, hcount, hengine]

theorem takeExhaustion_capturing {s : State} {n : Nat} (hcount : s.epoch.exhaustions = n + 1) (hengine : s.epoch.engine = .capturing) :
    takeExhaustion s = enterBroken { s with epoch.exhaustions := n } .exhausted := by simp [takeExhaustion, hcount, hengine]

/-- A break with a cause that allows no retry clears the target (R4). -/
theorem enterBroken_final {c : BrokenCause} (s : State) (h : (Engine.broken c).brokenRetryable = false) :
    ∃ n p, enterBroken s c =
      { s with epoch.engine := .broken c, epoch.target := none, hold.passes := s.hold.passes + 1, status.asked := true,
               notice := n, dlink.report := p } := by
  have hframe := enterBroken_frame s c
  rw [if_neg (Bool.eq_false_iff.1 h)] at hframe
  exact ⟨_, _, hframe⟩

/-- Settles O35: an expiry that is due answers or marks its entry, and an exhaustion breaks a CAPTURING engine. -/
theorem heldRequestExpires : Obligations.HeldRequestExpires := by
  intro s hs
  refine ⟨fun e hmem hnodup hout => ?_, fun n hcount => ⟨fun hengine => ?_, fun hengine => ?_⟩⟩
  · intro due answer
    have htake : effectOf (.holdExpiry e.request.id) s = _ := takeHoldExpiry_of_mem hmem hnodup
    refine ⟨fun hnot => ?_, fun hdue hcause hfresh => ?_, fun hdue hcause => ?_⟩
    · rw [if_neg (mt (expiryDue_iff s e).1 fun h => hnot h.1)] at htake
      exact exec_of_effect (by simp) (by simp) hs htake hs.2
    · rw [if_pos ((expiryDue_iff s e).2 ⟨hdue, by simp [hfresh]⟩), takeExpiry_journalFull hcause] at htake
      exact exec_of_effect (by simp) (by simp) hs htake hs.2
    · rw [if_pos ((expiryDue_iff s e).2 ⟨hdue, fun h => hcause h.1⟩), takeExpiry_answers hcause] at htake
      obtain ⟨⟨n, p, hframe⟩, hhanded⟩ := expireWithPass_spec hout
      rw [hframe] at htake hhanded
      exact ⟨_, exec_of_effect (by simp) (by simp) hs htake hs.2, rfl, hhanded⟩
  · exact exec_of_effect (c := .exhaustionReport) (by simp) (by simp) hs (takeExhaustion_of_ne hcount hengine) hs.2
  · have heffect : effectOf .exhaustionReport s = _ := takeExhaustion_capturing hcount hengine
    have hhanded := enterBroken_handed { s with epoch.exhaustions := n } .exhausted
    obtain ⟨u, p, hbroken⟩ := enterBroken_final (c := .exhausted) { s with epoch.exhaustions := n } rfl
    rw [hbroken] at heffect hhanded
    refine ⟨_, exec_settled (by simp) (by simp) hs heffect, ?_, ?_⟩
    · rw [settle_of_asked rfl, ← hs.2]
    · rw [settle_frame]
      exact hhanded.congr rfl rfl rfl rfl rfl

/-! ### Passes of re-evaluation -/

/-- What the judging of entries leaves alone: the time, the hold queue, the answers, the current epoch and the requests for a status
block. -/
theorem judgeEntries_frame (entries : List HeldEntry) (s : State) (kept : List HeldEntry) :
    ∃ a j c n d, (judgeEntries s kept entries).1 =
      { s with epoch.allocReports := a, journal := j, capture := c, notice := n, dlink := d } := by
  induction entries generalizing s kept with
  | nil => exact ⟨_, _, _, _, _, rfl⟩
  | cons e rest ih =>
    unfold judgeEntries
    split
    · exact ih _ _
    split
    · obtain ⟨a, j, c, n, d, h⟩ := ih (forwardRequest s e.request true) kept
      exact ⟨a, j, c, n, d, h⟩
    · rename_i i _
      obtain ⟨a, j, c, n, d, h⟩ := ih (allocate s e.request e.window i) kept
      rw [allocate_frame] at h
      exact ⟨a, j, c, n, d, by rw [allocate_frame, h]⟩
    · exact ih _ _

/-- What stays held are requests that were held, in their order. -/
theorem judgeEntries_ids (entries : List HeldEntry) (s : State) (kept : List HeldEntry) :
    ((judgeEntries s kept entries).2.map (fun e => e.request.id)).Sublist ((kept ++ entries).map (fun e => e.request.id)) := by
  have hdrop (k : List HeldEntry) (e : HeldEntry) (rest : List HeldEntry) :
      ((k ++ rest).map (fun e => e.request.id)).Sublist ((k ++ e :: rest).map (fun e => e.request.id)) :=
    ((List.sublist_cons_self e rest).append_left k).map _
  induction entries generalizing s kept with
  | nil => simp [judgeEntries]
  | cons e rest ih =>
    unfold judgeEntries
    split
    · simpa using ih s (kept ++ [e])
    split
    · exact (ih _ _).trans (hdrop ..)
    · exact (ih _ _).trans (hdrop ..)
    · rename_i cause _
      have hrest := ih s (kept ++ [{ e with cause := cause }])
      rw [List.append_assoc, List.map_append] at hrest
      rw [List.map_append]
      exact hrest

/-- Under the fence every entry stays, with cause ORDER or FENCE (R90). -/
theorem judgeEntries_fence {s : State} (hfence : s.epoch.engine.fenceUp = true) (entries kept : List HeldEntry) :
    judgeEntries s kept entries = (s, kept ++ entries.map (fun e =>
      { e with cause := if s.capture.holdsGranule (granuleOf e.request.addr) then .order else .fence })) := by
  have hengine : s.epoch.engine ≠ .capturing := by intro h; simp [h, Engine.fenceUp] at hfence
  induction entries generalizing kept with
  | nil => simp [judgeEntries]
  | cons e rest ih =>
    rw [judgeEntries, if_neg fun h => hengine h.1]
    simp only [judgeHeld, hfence, if_true]
    by_cases hbusy : s.capture.holdsGranule (granuleOf e.request.addr) = true
    · simp only [hbusy, if_true, ih, List.append_assoc, List.singleton_append, List.map_cons]
    · simp only [hbusy, ih, List.append_assoc, List.singleton_append, List.map_cons, Bool.false_eq_true, if_false]

/-- Where nothing is captured and no slot holds the granule of an entry, every entry is forwarded (R98). -/
theorem judgeEntries_forward (entries : List HeldEntry) (s : State) (hfence : s.epoch.engine.fenceUp = false)
    (hengine : s.epoch.engine ≠ .capturing)
    (hfree : ∀ e ∈ entries, s.capture.holdsGranule (granuleOf e.request.addr) = false) :
    judgeEntries s [] entries = ({ s with dlink.forward := s.dlink.forward ++ entries.map (fun e =>
      ⟨e.request.kind, e.request.addr, e.request.length, e.request.data, e.request.mask,
        .forwarded e.request.id e.request.kind false true⟩) }, []) := by
  induction entries generalizing s with
  | nil => simp [judgeEntries]
  | cons e rest ih =>
    have hjudge : judgeHeld s e.request false = .forward := by
      rw [judgeHeld, hfence]
      exact judgeOpen_forward (by simp [hfree e (by simp)]) (.inr (.inl hengine))
    rw [judgeEntries, if_neg fun h => hengine h.1]
    simp only [List.any_nil, hjudge]
    rw [ih (forwardRequest s e.request true) hfence hengine fun x hx => hfree x (by simp [hx])]
    simp [forwardRequest, forwardOf]

theorem takePass_eq {s : State} {n : Nat} (hpasses : s.hold.passes = n + 1) :
    takePass s = expireOverdue (runPass { s with hold.passes := n }) := by simp [takePass, hpasses]

/-- What a pass leaves with nothing at tHOLD does not expire in it (R93). -/
theorem expireOverdue_none {s : State} (h : ∀ e ∈ s.hold.entries, s.overdue e = false) : expireOverdue s = s := by
  have hnone : s.hold.entries.filter (fun e => s.overdue e && e.cause != .journalFull) = [] := by
    rw [List.filter_eq_nil_iff]
    intro e he
    simp [h e he]
  rw [expireOverdue, hnone]
  rfl

/-- The expiries of a pass (R93). -/
theorem expireOverdue_spec {s : State} (hnodup : (s.hold.entries.map (fun e => e.request.id)).Nodup)
    (hout : ∀ e ∈ s.hold.entries, e.request.id ∈ s.ulink.outstanding) :
    let expired (e : HeldEntry) : Bool := s.overdue e && e.cause != .journalFull
    let late := s.hold.entries.filter expired
    ∃ n p, expireOverdue s =
      { s with
        hold.entries := s.hold.entries.filter (fun e => !expired e)
        hold.passes := s.hold.passes + late.length
        ulink := ⟨s.ulink.outstanding.filter (fun x => late.all (fun e => x != e.request.id)),
          s.ulink.returned ++ late.map (fun e =>
            ⟨e.request.kind, e.request.id, if e.cause = .fence then .fenced else .expired, []⟩)⟩
        notice := n
        dlink.report := p } ∧
      Handed s { s with notice := n, dlink.report := p } (late.map (expiryNotice s.epoch.current)) := by
  intro expired late
  obtain ⟨hframe, hhanded⟩ := foldl_expireWithPass late s ((List.filter_sublist.map _).nodup hnodup)
    fun e he => hout e (List.mem_filter.1 he).1
  rw [filter_apart_ids _ hnodup] at hframe
  simp only [expiryStatus_eq] at hframe
  exact ⟨_, _, hframe, hhanded.congr rfl rfl rfl rfl rfl⟩

/-- Settles O36: a pass is the judging of the entries, then the expiries of what it leaves held. -/
theorem passJudgesHeldEntries : Obligations.PassJudgesHeldEntries := by
  intro s n hs hpasses taken reached
  have heffect : effectOf .reevaluationPass s = expireOverdue (runPass taken) := takePass_eq hpasses
  refine ⟨fun hnodup hout => ?_, fun hnone => ?_⟩
  · have hjudged := judgeEntries_judged s.hold.entries taken []
    obtain ⟨a, j, c, m, d, hframe⟩ := judgeEntries_frame s.hold.entries taken []
    have hids : ((judgeEntries taken [] s.hold.entries).2.map (fun e => e.request.id)).Nodup :=
      (judgeEntries_ids s.hold.entries taken []).nodup hnodup
    have hmem : ∀ e ∈ (judgeEntries taken [] s.hold.entries).2, e.request.id ∈ s.ulink.outstanding := by
      intro e he
      have hsub := (judgeEntries_ids s.hold.entries taken []).subset (List.mem_map_of_mem he)
      obtain ⟨x, hx, hid⟩ := List.mem_map.1 hsub
      exact hid ▸ hout x hx
    have hrun : runPass taken = { (judgeEntries taken [] s.hold.entries).1 with hold.entries :=
      (judgeEntries taken [] s.hold.entries).2 } := rfl
    generalize (judgeEntries taken [] s.hold.entries).1 = u, (judgeEntries taken [] s.hold.entries).2 = kept at *
    subst hframe
    obtain ⟨m', p', hexpired, hhanded⟩ := expireOverdue_spec (s := { taken with
      hold.entries := kept, epoch.allocReports := a, journal := j, capture := c, notice := m, dlink := d }) hids hmem
    rw [hrun] at heffect
    refine ⟨_, _, kept, exec_of_effect (by simp) (by simp) hs (heffect.trans hexpired) hs.2, hjudged, ?_, ?_⟩
    · rfl
    · exact hhanded.congr rfl rfl rfl rfl rfl
  · intro busy
    refine ⟨fun hfence => ?_, fun hengine hfree => ?_⟩
    · have hrun : runPass taken = _ := congrArg (fun p : State × List HeldEntry => { p.1 with hold.entries := p.2 })
        (judgeEntries_fence (s := taken) hfence s.hold.entries [])
      rw [hrun, expireOverdue_none] at heffect
      · exact exec_of_effect (by simp) (by simp) hs heffect hs.2
      · intro e he
        obtain ⟨x, hx, rfl⟩ := List.mem_map.1 he
        exact hnone x hx
    · have hrun : runPass taken = _ := congrArg (fun p : State × List HeldEntry => { p.1 with hold.entries := p.2 })
        (judgeEntries_forward s.hold.entries taken (by rcases hengine with h | h <;> simp [taken, h, Engine.fenceUp])
          (by rcases hengine with h | h <;> simp [taken, h]) hfree)
      rw [hrun, expireOverdue_none (by simp)] at heffect
      exact exec_of_effect (by simp) (by simp) hs heffect hs.2

/-! ### Timers -/

/-- An accepted commit and the low-water test of its reservation (R9, R81). -/
theorem commit_lowWaterTest {s : State} (origin : MarkOrigin) (hreports : s.epoch.allocReports = [])
    (hroom : s.epoch.index.length < 16) : ∃ number n p, FreshNumber s.epoch.current number s.epoch.index ∧
      lowWaterTest (commit s origin) = { s.committed number origin with notice := n, dlink.report := p } ∧
      Handed s { s.committed number origin with notice := n, dlink.report := p }
        (({ s.journal with head := s.journal.head + 1 } : Journal).lowNotices number) := by
  have hfresh := commit_number (s := s) (by omega)
  generalize hnumber : nextNumber s.epoch.current (s.epoch.index.map (fun e => e.number)) = number at hfresh
  generalize hv : ({ s.committed number origin with journal.armed := s.journal.armed } : State) = v
  have hlow := lowWaterTest_frame v
  have hhanded := lowWaterTest_handed v
  rw [commit_eq hreports, hnumber, hv]
  generalize lowWaterTest v = t at *
  refine ⟨number, t.notice, t.dlink.report, hfresh, ?_, ?_⟩
  · rw [← hv] at hlow
    exact hlow
  · rw [← hv] at hhanded
    exact hhanded.congr rfl rfl rfl rfl rfl

theorem unacked_pos_iff (u : NoticeUnit) : 0 < u.unacked ↔ u.writePos ≠ u.ackPos := by
  rw [NoticeUnit.unacked]
  constructor
  · rintro hpos heq
    simp [heq] at hpos
  · intro hne
    bv_omega

theorem unacked_eq_zero_iff (u : NoticeUnit) : u.unacked = 0 ↔ u.writePos = u.ackPos := by
  rw [← not_iff_not, ← ne_eq, ← Nat.pos_iff_ne_zero]
  exact unacked_pos_iff u

/-- Once the flush timer has expired, ATTN reports any unacknowledged notice (R174, R175). -/
theorem attnCondition_expired {u : NoticeUnit} (h : u.flush = .expired) :
    u.attnCondition = (u.pathStopped || decide (u.writePos ≠ u.ackPos)) := by
  simp only [NoticeUnit.attnCondition, h, beq_self_eq_true, Bool.or_true, Bool.true_or, Bool.and_true, unacked_pos_iff]

/-- Settles O37: the quiet timer restarts and may commit; the flush timer expires and ATTN is set by its condition. -/
theorem timersExpire : Obligations.TimersExpire := by
  intro s hs
  refine ⟨fun hquiet => ?_, fun hflush => ?_⟩
  · intro restarted commits
    have htake : effectOf .quietExpiry s = if quietCommitOk restarted then lowWaterTest (commit restarted .quiet) else restarted :=
      if_pos hquiet
    refine ⟨fun hnot => ?_, fun hcommits hreports => ?_⟩
    · rw [if_neg (mt (quietCommitOk_iff restarted).1 hnot)] at htake
      exact exec_of_effect (by simp) (by simp) hs htake hs.2
    · obtain ⟨-, -, hroom, -⟩ := id hcommits
      obtain ⟨number, u, p, hfresh, hcommit, hhanded⟩ := commit_lowWaterTest (s := restarted) .quiet hreports hroom
      rw [if_pos ((quietCommitOk_iff restarted).2 hcommits), hcommit] at htake
      exact ⟨_, number, exec_of_effect (by simp) (by simp) hs htake hs.2, hfresh, rfl, hhanded.congr rfl rfl rfl rfl rfl⟩
  · have htake : effectOf .flushExpiry s = updateAttn { s with notice.flush := .expired } := if_pos hflush
    have hattn : ({ s.notice with flush := .expired } : NoticeUnit).attnCondition =
        (s.notice.pathStopped || decide (s.notice.writePos ≠ s.notice.ackPos)) := attnCondition_expired rfl
    rw [updateAttn] at htake
    rw [← hattn]
    exact exec_of_effect (by simp) (by simp) hs htake hs.2

end Sys2Proof.Machine
end

section
/-! PROOF. Commands that set a window and the journal (O38 to O40): WINDOW_SET (R27 to R32), JOURNAL_SET (R66, R18) and JOURNAL_CLEAR
(R19, R67). Before them, what an accepted command leaves at the end of its action, with or without the low-water test behind its
answer (R151, R81). -/

namespace Sys2Proof.Machine

/-! ### An accepted command -/

/-- A command other than NOTICE_ACK hands over its COMMAND_DONE, accepted or not (R151). -/
theorem not_noticeAck_of {s : State} {q : QueuedCommand} {rest : List QueuedCommand} {opcode : Byte} (r : Result)
    (ho : s.offers q rest opcode) (h : opcode ≠ Opcode.noticeAck.code) :
    ¬ (q.opcode = Opcode.noticeAck.code ∧ r.accepted = true) := by
  obtain ⟨-, -, hopcode⟩ := ho
  exact fun hack => h (hopcode ▸ hack.1)

/-- An answer, and its notice (R151). -/
theorem answer_spec {q : QueuedCommand} {r : Result} (v : State) (hack : ¬ (q.opcode = Opcode.noticeAck.code ∧ r.accepted = true)) :
    ∃ n p, answer v q r = { v with cmd := ⟨v.cmd.queue, v.cmd.taken + 1, some ⟨q.tag, q.opcode, r⟩⟩, status.asked := true,
                                   notice := n, dlink.report := p } ∧
      Handed v { v with notice := n, dlink.report := p } [(.commandDone q.tag q.opcode r, v.epoch.current)] :=
  ⟨_, _, answer_frame v q r, (answer_handed hack).congr rfl rfl rfl rfl rfl⟩

/-- The end of an action that ends in an answer: one request for a status block, however often it asked (R151, R156). -/
theorem settle_answer_spec {v : State} {q : QueuedCommand} {r : Result} {st : StatusWriter} {b : Bool}
    (hack : ¬ (q.opcode = Opcode.noticeAck.code ∧ r.accepted = true)) (hrest : st.asked = false)
    (hstatus : v.status = { st with asked := b }) :
    ∃ n p, settle (answer v q r) =
        { v with cmd := ⟨v.cmd.queue, v.cmd.taken + 1, some ⟨q.tag, q.opcode, r⟩⟩, status := { st with requests := st.requests + 1 },
                 notice := n, dlink.report := p } ∧
      Handed v { v with notice := n, dlink.report := p } [(.commandDone q.tag q.opcode r, v.epoch.current)] := by
  obtain ⟨n, p, hframe, hhanded⟩ := answer_spec v hack
  refine ⟨n, p, ?_, hhanded⟩
  rw [hframe, settle_of_asked rfl, hstatus, ← hrest]

/-- The same with the low-water test behind the answer (R151, R81). -/
theorem settle_lowWaterTest_answer {v : State} {q : QueuedCommand} {r : Result} {st : StatusWriter} {b : Bool}
    (hack : ¬ (q.opcode = Opcode.noticeAck.code ∧ r.accepted = true)) (hrest : st.asked = false)
    (hstatus : v.status = { st with asked := b }) :
    ∃ n p, settle (lowWaterTest (answer v q r)) =
        { v with cmd := ⟨v.cmd.queue, v.cmd.taken + 1, some ⟨q.tag, q.opcode, r⟩⟩, status := { st with requests := st.requests + 1 },
                 journal.armed := v.journal.armedAfter, notice := n, dlink.report := p } ∧
      Handed v { v with notice := n, dlink.report := p }
        ((.commandDone q.tag q.opcode r, v.epoch.current) :: v.journal.lowNotices v.epoch.current) := by
  obtain ⟨n, p, hframe, hhanded⟩ := answer_spec v hack
  have hlow := lowWaterTest_frame (answer v q r)
  have htested := lowWaterTest_handed (answer v q r)
  generalize lowWaterTest (answer v q r) = t at *
  rw [hframe] at hlow htested
  refine ⟨t.notice, t.dlink.report, ?_, hhanded.trans (htested.congr rfl rfl rfl rfl rfl) rfl⟩
  rw [hlow, settle_of_asked rfl, hstatus, ← hrest]

/-- A command that its rule accepts, where nothing follows the answer (R151). -/
theorem settle_accepted {s u v : State} {rule : Rule} {q : QueuedCommand} {r : Result} {b : Bool} (hs : s.atRest)
    (hafter : rule.after = nothingAfter) (hjudge : rule.judge u q.args = r) (hr : r.accepted = true)
    (hchange : rule.change u q.args = v) (hack : ¬ (q.opcode = Opcode.noticeAck.code ∧ r.accepted = true))
    (hstatus : v.status = { s.status with asked := b }) :
    ∃ n p, settle (applyRule rule q u) =
        { v with cmd := ⟨v.cmd.queue, v.cmd.taken + 1, some ⟨q.tag, q.opcode, r⟩⟩
                 status := { s.status with requests := s.status.requests + 1 }, notice := n, dlink.report := p } ∧
      Handed v { v with notice := n, dlink.report := p } [(.commandDone q.tag q.opcode r, v.epoch.current)] := by
  rw [applyRule_of_judge hjudge hr hchange, hafter]
  exact settle_answer_spec hack hs.2 hstatus

/-- A command that its rule accepts, with the low-water test behind the answer (R151, R81). -/
theorem settle_accepted_tested {s u v : State} {rule : Rule} {q : QueuedCommand} {r : Result} {b : Bool} (hs : s.atRest)
    (hafter : rule.after = fun t _ => lowWaterTest t) (hjudge : rule.judge u q.args = r) (hr : r.accepted = true)
    (hchange : rule.change u q.args = v) (hack : ¬ (q.opcode = Opcode.noticeAck.code ∧ r.accepted = true))
    (hstatus : v.status = { s.status with asked := b }) :
    ∃ n p, settle (applyRule rule q u) =
        { v with cmd := ⟨v.cmd.queue, v.cmd.taken + 1, some ⟨q.tag, q.opcode, r⟩⟩
                 status := { s.status with requests := s.status.requests + 1 }
                 journal.armed := v.journal.armedAfter, notice := n, dlink.report := p } ∧
      Handed v { v with notice := n, dlink.report := p }
        ((.commandDone q.tag q.opcode r, v.epoch.current) :: v.journal.lowNotices v.epoch.current) := by
  rw [applyRule_of_judge hjudge hr hchange, hafter]
  exact settle_lowWaterTest_answer hack hs.2 hstatus

/-- A result that is neither DONE nor STARTED is a refusal (R152). -/
theorem Result.not_accepted {r : Result} (hdone : r ≠ .done) (hstarted : r ≠ .started) : r.accepted = false :=
  Bool.eq_false_iff.2 fun h => (accepted_iff.1 h).elim hdone hstarted

/-! ### WINDOW_SET -/

/-- What the command unit does with WINDOW_SET (R28). -/
def windowSetRule : Rule := ⟨judgeWindowSet, changeWindowSet, nothingAfter⟩

theorem exec_windowSet {s : State} {q : QueuedCommand} {rest : List QueuedCommand} (hs : s.atRest) (ho : s.offers q rest 1) :
    exec .windowSet s = .next (settle (applyRule windowSetRule q { s with cmd.queue := rest })) :=
  exec_command (isIt := fun b => b == Opcode.windowSet.code) (by simp) (by simp) hs ho rfl (by decide)

/-- The argument checks of WINDOW_SET (R27, R194). -/
theorem windowArgs_ok_iff (a : WindowArgs) : a.ok = true ↔ a.index ≤ 15 ∧ (a.mode = 0 ∨ ((a.mode = 1 ∨ a.mode = 2) ∧
    a.base ≤ 281474976710655 ∧ a.limit ≤ 281474976710655 ∧ a.base % 4096 = 0 ∧ a.limit % 4096 = 4095 ∧
      a.base ≤ a.limit ∧ a.quietReload ≤ 1 ∧ a.guardReport ≤ 1)) := by
  rw [WindowArgs.ok, Bool.and_eq_true, decide_eq_true_iff]
  refine and_congr_right fun _ => ?_
  split
  · rename_i h0
    simp [h0]
  · rename_i h1
    rw [decide_eq_true_iff, h1, Config.lastAddress]
    omega
  · rename_i h2
    rw [decide_eq_true_iff, h2, Config.lastAddress]
    omega
  · rename_i h0 h1 h2
    have hmode : ¬ (a.mode = 0 ∨ a.mode = 1 ∨ a.mode = 2) := by rintro (h | h | h); exacts [h0 h, h1 h, h2 h]
    simp only [Bool.false_eq_true, false_iff]
    omega

theorem windowMode_journal_iff (s : State) (n : Nat) :
    windowMode s n = .journal ↔ s.windows[n]?.any (fun w => w.mode == .journal) = true := by
  unfold windowMode
  cases s.windows[n]? with
  | none => simp
  | some w => simp

/-- A requested range meets another area (R31). -/
theorem windowOverlaps_iff (s : State) (a : WindowArgs) : windowOverlaps s a = true ↔ a.mode ≠ 0 ∧
    ((∃ i : Fin 16, i.val ≠ a.index ∧ meetsOpt ⟨a.base, a.limit⟩ s.windows[i].area? = true) ∨
      meetsOpt ⟨a.base, a.limit⟩ s.commandArea? = true ∨ meetsOpt ⟨a.base, a.limit⟩ s.journalArea? = true ∨
      meetsOpt ⟨a.base, a.limit⟩ s.noticeArea? = true) := by
  unfold windowOverlaps WindowArgs.area?
  by_cases h0 : a.mode = 0
  · simp [h0]
  · simp only [h0, if_false, Option.any_some, Bool.or_eq_true, meetsWindow_iff, ne_eq, Option.some.injEq, not_false_eq_true,
      true_and, or_assoc]

theorem epochCondition_iff (s : State) : s.epochCondition = true ↔ s.epoch.engine = .capturing ∧ s.epoch.captureCount = 0 := by
  simp [State.epochCondition]

/-- The contents that well-formed arguments give (R27). -/
theorem contents_eq {a : WindowArgs} (hmode : a.mode = 0 ∨ a.mode = 1 ∨ a.mode = 2) : a.contents =
    if a.mode = 0 then ⟨.off, 0, 0, false, false⟩
    else if a.mode = 1 then ⟨.journal, BitVec.ofNat 48 a.base, BitVec.ofNat 48 a.limit, a.quietReload == 1, false⟩
    else ⟨.guard, BitVec.ofNat 48 a.base, BitVec.ofNat 48 a.limit, false, a.guardReport == 1⟩ := by
  rcases hmode with h | h | h <;> simp [WindowArgs.contents, h, Window.cleared]

theorem judgeWindowSet_ne_started (s : State) (l : Line) : judgeWindowSet s l ≠ .started := by
  unfold judgeWindowSet
  simp only
  split_ifs <;> decide

/-- Settles O38: the judgement is R28's table, and an accepted setting replaces the window it names. -/
theorem windowSetIsJudgedAndApplied : Obligations.WindowSetIsJudgedAndApplied := by
  intro s q rest hs ho a area inRange wellFormed named journalNow work overlap r contents
  have hjudge : judgeWindowSet { s with cmd.queue := rest } q.args = r := by
    refine if_congr ?_ rfl (if_congr Iff.rfl rfl (if_congr ?_ rfl (if_congr ?_ rfl (if_congr ?_ rfl rfl))))
    · rw [Bool.not_eq_true', ← Bool.not_eq_true]
      exact not_congr (windowArgs_ok_iff a)
    · refine and_congr (or_congr Iff.rfl (windowMode_journal_iff _ _)) ?_
      rw [Bool.not_eq_true', ← Bool.not_eq_true]
      exact not_congr (epochCondition_iff _)
    · exact and_congr (windowMode_journal_iff _ _) Iff.rfl
    · exact windowOverlaps_iff _ a
  refine ⟨_, exec_windowSet hs ho, fun hr => ?_, fun hr => ?_⟩
  · exact refused_of_judge (rule := windowSetRule) hs hjudge (Result.not_accepted hr (hjudge ▸ judgeWindowSet_ne_started _ _))
  · have hdone := hjudge.trans hr
    obtain ⟨hok, -⟩ := accepted_windowSet (Result.accepted_iff.2 (.inl hdone))
    obtain ⟨-, hmode⟩ := (windowArgs_ok_iff _).1 hok
    obtain ⟨n, p, hframe, hhanded⟩ := settle_accepted (rule := windowSetRule) (b := s.status.asked) hs rfl hdone rfl rfl
      (not_noticeAck_of .done ho (by decide)) rfl
    rw [hframe]
    refine ⟨rfl, fun i => ?_, hhanded.congr rfl rfl rfl rfl rfl⟩
    refine (getElem_setIfInBounds_window s.windows a.index a.contents i).trans ?_
    rw [contents_eq (hmode.imp_right And.left)]

/-! ### JOURNAL_SET -/

/-- What the command unit does with JOURNAL_SET (R66). -/
def journalSetRule : Rule := ⟨judgeJournalSet, changeJournalSet, fun s _ => lowWaterTest s⟩

theorem exec_journalSet {s : State} {q : QueuedCommand} {rest : List QueuedCommand} (hs : s.atRest) (ho : s.offers q rest 2) :
    exec .journalSet s = .next (settle (applyRule journalSetRule q { s with cmd.queue := rest })) :=
  exec_command (isIt := fun b => b == Opcode.journalSet.code) (by simp) (by simp) hs ho rfl (by decide)

/-- The journal's area meets another (R66). -/
theorem journalOverlaps_iff (s : State) (a : Area) : journalOverlaps s a = true ↔
    (∃ i : Fin 16, meetsOpt a s.windows[i].area? = true) ∨ meetsOpt a s.commandArea? = true ∨ meetsOpt a s.noticeArea? = true := by
  simp [journalOverlaps, meetsWindow_iff, or_assoc]

/-- The table of R66. -/
theorem judgeJournalSet_eq (s : State) (l : Line) : judgeJournalSet s l =
    if s.mgmt.device ≠ .listening then .state
    else if ¬ (journalBaseArg l % 4096 = 0 ∧ (∃ k ≤ 12, journalSizeArg l = 256 * 2 ^ k) ∧
      journalBaseArg l + journalSizeArg l * 320 - 1 ≤ 281474976710655) then .badArgument
    else if journalOverlaps s (journalArea (journalBaseArg l) (journalSizeArg l)) = true then .overlap
    else .done := by
  have hsize_iff := journalSizeOk_iff (journalSizeArg l)
  refine if_congr Iff.rfl rfl ?_
  by_cases hbase : journalBaseArg l % 4096 = 0
  · by_cases hsize : journalSizeOk (journalSizeArg l) = true
    · rw [if_neg (not_not_intro hbase), if_neg (by simp [hsize])]
      refine if_congr ?_ rfl rfl
      rw [Config.lastAddress, ← Nat.not_le]
      exact not_congr ⟨fun h => ⟨hbase, hsize_iff.1 hsize, h⟩, fun h => h.2.2⟩
    · rw [if_neg (not_not_intro hbase), if_pos (by simpa using hsize), if_pos fun h => hsize (hsize_iff.2 h.2.1)]
  · rw [if_pos hbase, if_pos fun h => hbase h.1]

theorem judgeJournalSet_ne_started (s : State) (l : Line) : judgeJournalSet s l ≠ .started := by
  rw [judgeJournalSet_eq]
  split_ifs <;> decide

/-- Settles O39: the judgement is R66's table, and an accepted setting configures the journal and opens epoch 1. -/
theorem journalSetIsJudgedAndApplied : Obligations.JournalSetIsJudgedAndApplied := by
  intro s q rest hs ho base n area fits overlap opened
  have hoverlap : journalOverlaps { s with cmd.queue := rest } area = true ↔ overlap := journalOverlaps_iff _ _
  have htable : judgeJournalSet { s with cmd.queue := rest } q.args = _ := judgeJournalSet_eq _ _
  generalize hjudge : judgeJournalSet { s with cmd.queue := rest } q.args = r at htable
  refine ⟨_, r, exec_journalSet hs ho, fun hdevice => ?_, fun hdevice hfits => ?_, fun hdevice hfits hover => ?_,
    fun hdevice hfits hover => ?_, fun hr => ?_, fun hr => ?_⟩
  · rw [htable, if_pos (by exact hdevice)]
  · rw [htable, if_neg (by exact not_not_intro hdevice), if_pos (by exact hfits)]
  · rw [htable, if_neg (by exact not_not_intro hdevice), if_neg (by exact not_not_intro hfits), if_pos (by exact hoverlap.2 hover)]
  · rw [htable, if_neg (by exact not_not_intro hdevice), if_neg (by exact not_not_intro hfits),
      if_neg (by exact mt hoverlap.1 hover)]
  · exact refused_of_judge (rule := journalSetRule) hs hjudge
      (Result.not_accepted hr (hjudge ▸ judgeJournalSet_ne_started { s with cmd.queue := rest } _))
  · subst hr
    obtain ⟨m, p, hframe, hhanded⟩ := settle_accepted_tested (rule := journalSetRule) (b := true) hs rfl hjudge rfl rfl
      (not_noticeAck_of .done ho (by decide)) rfl
    rw [hframe]
    exact ⟨rfl, hhanded.congr rfl rfl rfl rfl rfl⟩

/-! ### JOURNAL_CLEAR -/

/-- What the command unit does with JOURNAL_CLEAR (R19). -/
def journalClearRule : Rule := ⟨judgeJournalClear, changeJournalClear, nothingAfter⟩

theorem exec_journalClear {s : State} {q : QueuedCommand} {rest : List QueuedCommand} (hs : s.atRest) (ho : s.offers q rest 3) :
    exec .journalClear s = .next (settle (applyRule journalClearRule q { s with cmd.queue := rest })) :=
  exec_command (isIt := fun b => b == Opcode.journalClear.code) (by simp) (by simp) hs ho rfl (by decide)

/-- The journal is quiet while no slot is busy and no marker write is unanswered (R17, R19). -/
theorem not_journalQuiet_iff (s : State) : (!s.journalQuiet) = true ↔
    (∃ i : Fin 8, s.capture.slots[i] ≠ none) ∨ s.epoch.markers ≠ [] := by
  rw [Bool.not_eq_true', State.journalQuiet, Bool.and_eq_false_iff, ← Bool.not_eq_true, ← Bool.not_eq_true, noneBusy_iff,
    List.isEmpty_iff, not_forall]

/-- The table of R19. -/
theorem judgeJournalClear_eq (s : State) (l : Line) : judgeJournalClear s l =
    if s.mgmt.device ≠ .running then .noJournal
    else if s.epoch.engine = .draining ∨ s.epoch.engine = .restoring ∨ s.epoch.engine = .absent then .busy
    else if ∃ i : Fin 16, s.windows[i].mode = .journal then .state
    else if (∃ i : Fin 8, s.capture.slots[i] ≠ none) ∨ s.epoch.markers ≠ [] then .busy
    else .done := by
  refine if_congr Iff.rfl rfl (if_congr ?_ rfl (if_congr ?_ rfl (if_congr (not_journalQuiet_iff s) rfl rfl)))
  · cases s.epoch.engine <;> simp [Engine.isBroken]
  · rw [List.any_eq_true]
    constructor
    · rintro ⟨w, hw, hmode⟩
      obtain ⟨i, hi, rfl⟩ := List.mem_iff_getElem.1 hw
      exact ⟨⟨i, by simpa using hi⟩, by simpa using hmode⟩
    · rintro ⟨i, hmode⟩
      exact ⟨_, Vector.mem_toList_iff.2 (Vector.getElem_mem i.isLt), by simpa using hmode⟩

theorem judgeJournalClear_ne_started (s : State) (l : Line) : judgeJournalClear s l ≠ .started := by
  rw [judgeJournalClear_eq]
  split_ifs <;> decide

/-- Settles O40: the judgement is R19's table, and an accepted clearing removes the journal and the epoch state. -/
theorem journalClearIsJudgedAndApplied : Obligations.JournalClearIsJudgedAndApplied := by
  intro s q rest hs ho r
  have hjudge : judgeJournalClear { s with cmd.queue := rest } q.args = r := judgeJournalClear_eq _ _
  refine ⟨_, exec_journalClear hs ho, fun hr => ?_, fun hr => ?_⟩
  · exact refused_of_judge (rule := journalClearRule) hs hjudge (Result.not_accepted hr (hjudge ▸ judgeJournalClear_ne_started _ _))
  · have hdone := hjudge.trans hr
    obtain ⟨m, p, hframe, hhanded⟩ := settle_accepted (rule := journalClearRule) (b := true) hs rfl hdone rfl rfl
      (not_noticeAck_of .done ho (by decide)) rfl
    rw [hframe]
    exact ⟨rfl, hhanded.congr rfl rfl rfl rfl rfl⟩

end Sys2Proof.Machine
end

section
/-! PROOF. Commands of the epoch controller (O41 to O43, O45): JOURNAL_RELEASE (R15, R16, R74), EPOCH_COMMIT (R8, R9), EPOCH_ROLLBACK
(R103 to R106) and EPOCH_RESUME (R17, R76). -/

namespace Sys2Proof.Machine

/-! ### The rollback target and the index -/

/-- The causes that allow a retry (R4). -/
theorem brokenRetryable_iff (e : Engine) : e.brokenRetryable = true ↔ e = .broken .restoreFault ∨ e = .broken .aborted := by
  cases e with
  | broken c => cases c <;> simp [Engine.brokenRetryable]
  | _ => simp [Engine.brokenRetryable]

/-- The causes that allow no rollback (R4). -/
theorem brokenLost_iff (e : Engine) : e.brokenLost = true ↔ e = .broken .exhausted ∨ e = .broken .journalFault := by
  cases e with
  | broken c => cases c <;> simp [Engine.brokenLost]
  | _ => simp [Engine.brokenLost]

/-- An epoch of the index is older than the target exactly when the target stands behind it (R15). -/
theorem olderThanTarget_iff {ep : EpochController} {older newer : List IndexEntry} {e : IndexEntry}
    (hnumbers : (ep.index.map (fun x => x.number)).Nodup) (hnamed : ∀ t, ep.target = some t → t ∈ ep.index.map (fun x => x.number))
    (hindex : ep.index = older ++ e :: newer) :
    olderThanTarget ep e.number = true ↔ ∃ x ∈ newer, ep.target = some x.number := by
  rw [olderThanTarget, Option.any_eq_true]
  constructor
  · rintro ⟨t, ht, hany⟩
    obtain ⟨x, hx, hnumber⟩ := List.any_eq_true.1 hany
    have hmem := mem_drop_olderThan (hnamed t ht) ⟨x, hx, by simpa using hnumber⟩
    have holder : olderThan ep.index e.number = older := by rw [hindex]; exact (olderThan_eq (hindex ▸ hnumbers)).1
    rw [holder, hindex, List.drop_length_add_append, List.drop_succ_cons, List.drop_zero] at hmem
    obtain ⟨y, hy, hyt⟩ := List.mem_map.1 hmem
    exact ⟨y, hy, hyt ▸ ht⟩
  · rintro ⟨x, hx, ht⟩
    obtain ⟨middle, last, rfl⟩ := List.append_of_mem hx
    have hsplit : ep.index = (older ++ e :: middle) ++ x :: last := by simp [hindex]
    have holder : olderThan ep.index x.number = older ++ e :: middle := by
      rw [hsplit]
      exact (olderThan_eq (hsplit ▸ hnumbers)).1
    exact ⟨x.number, ht, by simp [holder]⟩

/-- The entry of an epoch whose number is not in the index (R5). -/
theorem entry?_none {ep : EpochController} {n : EpochNo} (h : ∀ e ∈ ep.index, e.number ≠ n) : ep.entry? n = none :=
  List.find?_eq_none.2 fun e he => by simpa using h e he

/-- The entry of an epoch in the index, and those before it (R5). -/
theorem entry?_of_index {ep : EpochController} {older newer : List IndexEntry} {e : IndexEntry}
    (hnumbers : (ep.index.map (fun x => x.number)).Nodup) (hindex : ep.index = older ++ e :: newer) :
    ep.entry? e.number = some e ∧ olderThan ep.index e.number = older := by
  rw [EpochController.entry?, hindex]
  exact (olderThan_eq (hindex ▸ hnumbers)).symm

/-! ### JOURNAL_RELEASE -/

/-- What the command unit does with JOURNAL_RELEASE (R15). -/
def journalReleaseRule : Rule := ⟨judgeJournalRelease, changeJournalRelease, fun s _ => lowWaterTest s⟩

theorem exec_journalRelease {s : State} {q : QueuedCommand} {rest : List QueuedCommand} (hs : s.atRest) (ho : s.offers q rest 4) :
    exec .journalRelease s = .next (settle (applyRule journalReleaseRule q { s with cmd.queue := rest })) :=
  exec_command (isIt := fun b => b == Opcode.journalRelease.code) (by simp) (by simp) hs ho rfl (by decide)

/-- The release of an epoch that is not in the index (R15). -/
theorem judgeJournalRelease_unknown {s : State} {l : Line} (hdevice : s.mgmt.device = .running)
    (hengine : ¬ (s.epoch.engine = .draining ∨ s.epoch.engine = .restoring))
    (hentry : s.epoch.entry? (s.epoch.resolve (epochArg l)) = none) : judgeJournalRelease s l = .unknownEpoch := by
  unfold judgeJournalRelease
  simp only
  rw [if_neg (not_not_intro hdevice), if_neg hengine, hentry]

/-- The release of an epoch of the index (R15). -/
theorem judgeJournalRelease_entry {s : State} {l : Line} {e : IndexEntry} (hdevice : s.mgmt.device = .running)
    (hengine : ¬ (s.epoch.engine = .draining ∨ s.epoch.engine = .restoring))
    (hentry : s.epoch.entry? (s.epoch.resolve (epochArg l)) = some e) : judgeJournalRelease s l =
      if e.state ≠ .closed then .state
      else if s.epoch.engine.brokenRetryable ∧ !olderThanTarget s.epoch (s.epoch.resolve (epochArg l)) then .busy
      else .done := by
  unfold judgeJournalRelease
  simp only
  rw [if_neg (not_not_intro hdevice), if_neg hengine, hentry]

/-- The change of R16 and R74, for an entry with a marker. -/
theorem changeJournalRelease_entry {s : State} {l : Line} {older newer : List IndexEntry} {e : IndexEntry} {m : Seq}
    (hnumbers : (s.epoch.index.map (fun x => x.number)).Nodup) (hindex : s.epoch.index = older ++ e :: newer)
    (hresolve : s.epoch.resolve (epochArg l) = e.number) (hmarker : e.marker = some m) : changeJournalRelease s l =
      { s with journal.release := m + 1, epoch.index := newer, hold.passes := s.hold.passes + 1 } := by
  obtain ⟨hentry, holder⟩ := entry?_of_index hnumbers hindex
  have hdrop : s.epoch.index.drop ((olderThan s.epoch.index e.number).length + 1) = newer := by
    rw [holder, hindex, List.drop_length_add_append, List.drop_succ_cons, List.drop_zero]
  simp only [changeJournalRelease, hresolve, hdrop, hentry, Option.bind_some, hmarker, Option.elim_some]

/-- Settles O41: the judgement is R15's table, and an accepted release moves past the epoch's marker. -/
theorem journalReleaseIsJudgedAndApplied : Obligations.JournalReleaseIsJudgedAndApplied := by
  intro s q rest hs ho hsound n named
  have hrefused {r : Result} (hjudge : judgeJournalRelease { s with cmd.queue := rest } q.args = r) (hr : r.accepted = false) :
      ∃ t, exec .journalRelease s = .next t ∧ Refused s t q rest r :=
    ⟨_, exec_journalRelease hs ho, refused_of_judge (rule := journalReleaseRule) hs hjudge hr⟩
  obtain ⟨hrunning, -, -, -, hnumbers, -, -, htarget⟩ := hsound
  refine ⟨fun hdevice => hrefused (if_pos hdevice) rfl, fun hengine => hrefused ?_ rfl, fun hdevice hdrain hrestore => ?_⟩
  · have hdevice : s.mgmt.device = .running := hrunning.2 (by rcases hengine with h | h <;> simp [h])
    exact (if_neg (by exact not_not_intro hdevice)).trans (if_pos hengine)
  have hidle : ¬ (s.epoch.engine = .draining ∨ s.epoch.engine = .restoring) := not_or_intro hdrain hrestore
  refine ⟨fun hnone => hrefused (judgeJournalRelease_unknown hdevice hidle (entry?_none (by exact hnone))) rfl,
    fun older e newer hindex hname => ?_⟩
  obtain ⟨hentry, -⟩ := entry?_of_index hnumbers hindex
  have hresolve : s.epoch.resolve (epochArg q.args) = e.number := hname.symm
  intro retry
  have hretry : retry ↔ s.epoch.engine.brokenRetryable = true := (brokenRetryable_iff _).symm
  have hold : olderThanTarget s.epoch (s.epoch.resolve (epochArg q.args)) = true ↔ ∃ x ∈ newer, s.epoch.target = some x.number := by
    rw [hresolve]
    exact olderThanTarget_iff hnumbers htarget hindex
  have htable : judgeJournalRelease { s with cmd.queue := rest } q.args =
      if e.state ≠ .closed then .state
      else if s.epoch.engine.brokenRetryable ∧ !olderThanTarget s.epoch (s.epoch.resolve (epochArg q.args)) then .busy else .done :=
    judgeJournalRelease_entry hdevice hidle (hresolve ▸ hentry)
  refine ⟨fun hstate => hrefused (htable.trans (if_pos hstate)) rfl, fun hstate hre hno => hrefused ?_ rfl,
    fun m hstate hmarker hgo => ?_⟩
  · rw [htable, if_neg (not_not_intro hstate), if_pos]
    refine ⟨hretry.1 hre, ?_⟩
    rw [Bool.not_eq_true', ← Bool.not_eq_true, hold]
    exact fun ⟨x, hx, ht⟩ => hno x hx ht
  · intro released
    have hjudge : judgeJournalRelease { s with cmd.queue := rest } q.args = .done := by
      rw [htable, if_neg (not_not_intro hstate), if_neg]
      rintro ⟨hre, hno⟩
      rw [Bool.not_eq_true', ← Bool.not_eq_true, hold] at hno
      exact hgo.elim (fun h => h (hretry.2 hre)) hno
    have hchange := changeJournalRelease_entry (s := { s with cmd.queue := rest }) hnumbers hindex hresolve hmarker
    obtain ⟨u, p, hframe, hhanded⟩ := settle_accepted_tested (rule := journalReleaseRule) (b := s.status.asked) hs rfl hjudge rfl
      hchange (not_noticeAck_of .done ho (by decide)) rfl
    exact ⟨_, exec_journalRelease hs ho, by rw [hframe]; rfl, by rw [hframe]; exact hhanded.congr rfl rfl rfl rfl rfl⟩

/-! ### EPOCH_COMMIT -/

/-- What the command unit does with EPOCH_COMMIT (R8). -/
def epochCommitRule : Rule := ⟨judgeEpochCommit, fun s _ => commit s .command, fun s _ => lowWaterTest s⟩

theorem exec_epochCommit {s : State} {q : QueuedCommand} {rest : List QueuedCommand} (hs : s.atRest) (ho : s.offers q rest 5) :
    exec .epochCommit s = .next (settle (applyRule epochCommitRule q { s with cmd.queue := rest })) :=
  exec_command (isIt := fun b => b == Opcode.epochCommit.code) (by simp) (by simp) hs ho rfl (by decide)

theorem judgeEpochCommit_ne_done (s : State) (l : Line) : judgeEpochCommit s l ≠ .done := by
  unfold judgeEpochCommit
  split_ifs <;> decide

/-- Settles O42: the judgement is R8's table, and an accepted commit closes the current epoch and opens the next. -/
theorem epochCommitIsJudgedAndApplied : Obligations.EpochCommitIsJudgedAndApplied := by
  intro s q rest hs ho r
  have hjudge : judgeEpochCommit { s with cmd.queue := rest } q.args = r :=
    if_congr Iff.rfl rfl (if_congr Iff.rfl rfl (if_congr Iff.rfl rfl (if_congr (free_eq_zero_iff _) rfl rfl)))
  refine ⟨_, exec_epochCommit hs ho, fun hr => ?_, fun hr hreports => ?_⟩
  · exact refused_of_judge (rule := epochCommitRule) hs hjudge (Result.not_accepted (hjudge ▸ judgeEpochCommit_ne_done _ _) hr)
  · have hstarted := hjudge.trans hr
    obtain ⟨-, hroom⟩ := accepted_epochCommit (Result.accepted_iff.2 (.inr hstarted))
    have hchange := commit_eq (s := { s with cmd.queue := rest }) hreports .command
    obtain ⟨u, p, hframe, hhanded⟩ := settle_accepted_tested (rule := epochCommitRule) (b := s.status.asked) hs rfl hstarted rfl
      hchange (not_noticeAck_of .started ho (by decide)) rfl
    have hroom : s.epoch.index.length < 16 := hroom
    rw [hframe]
    exact ⟨_, commit_number (by omega), rfl, hhanded.congr rfl rfl rfl rfl rfl⟩

/-! ### EPOCH_ROLLBACK -/

/-- What the command unit does with EPOCH_ROLLBACK (R103). -/
def epochRollbackRule : Rule := ⟨judgeEpochRollback, changeEpochRollback, fun s _ => drainTest s⟩

theorem exec_epochRollback {s : State} {q : QueuedCommand} {rest : List QueuedCommand} (hs : s.atRest) (ho : s.offers q rest 6) :
    exec .epochRollback s = .next (settle (applyRule epochRollbackRule q { s with cmd.queue := rest })) :=
  exec_command (isIt := fun b => b == Opcode.epochRollback.code) (by simp) (by simp) hs ho rfl (by decide)

/-- The table of R103, for a RUNNING device with no rollback under way and none that is lost. -/
theorem judgeEpochRollback_eq {s : State} (l : Line) (hdevice : s.mgmt.device = .running)
    (hengine : ¬ (s.epoch.engine = .draining ∨ s.epoch.engine = .restoring)) (hlost : ¬ s.epoch.engine.brokenLost = true) :
    judgeEpochRollback s l =
      if (s.epoch.entry? (s.epoch.resolve (epochArg l))).isSome then
        if s.epoch.engine.brokenRetryable ∧ !(s.epoch.target == some (s.epoch.resolve (epochArg l)) ||
          olderThanTarget s.epoch (s.epoch.resolve (epochArg l))) then .state else .started
      else .unknownEpoch := by
  unfold judgeEpochRollback
  simp only
  rw [if_neg (not_not_intro hdevice), if_neg hengine, if_neg hlost]
  cases s.epoch.entry? (s.epoch.resolve (epochArg l)) <;> rfl

/-- Settles O43: the judgement is R103's table; accepted, the drain begins, and ends at once where there is nothing to wait for. -/
theorem epochRollbackIsJudgedAndApplied : Obligations.EpochRollbackIsJudgedAndApplied := by
  intro s q rest hs ho hsound n named refusal retry
  have hrefused {r : Result} (hjudge : judgeEpochRollback { s with cmd.queue := rest } q.args = r) (hr : r.accepted = false) :
      refusal r := ⟨_, exec_epochRollback hs ho, refused_of_judge (rule := epochRollbackRule) hs hjudge hr⟩
  obtain ⟨hrunning, -, -, hlength, hnumbers, -, -, htarget⟩ := hsound
  have hdevice_of (h : s.epoch.engine ≠ .absent) : ¬ s.mgmt.device ≠ .running := not_not_intro (hrunning.2 h)
  have hretry : retry ↔ s.epoch.engine.brokenRetryable = true := (brokenRetryable_iff _).symm
  refine ⟨fun hdevice => hrefused (if_pos hdevice) rfl, fun hengine => hrefused ?_ rfl, fun hengine => hrefused ?_ rfl,
    fun hengine => ?_⟩
  · exact (if_neg (by exact hdevice_of (by rcases hengine with h | h <;> simp [h]))).trans (if_pos hengine)
  · refine (if_neg (by exact hdevice_of (by rcases hengine with h | h <;> simp [h]))).trans ((if_neg ?_).trans (if_pos ?_))
    · rcases hengine with h | h <;> simp [h]
    · exact (brokenLost_iff _).2 hengine
  have hlive : s.epoch.engine ≠ .absent := by rcases hengine with h | h | h <;> simp [h]
  have htable : judgeEpochRollback { s with cmd.queue := rest } q.args = _ :=
    judgeEpochRollback_eq q.args (hrunning.2 hlive) (by rcases hengine with h | h | h <;> simp [h])
      (by rcases hengine with h | h | h <;> simp [h, Engine.brokenLost])
  refine ⟨fun hnone => hrefused ?_ rfl, fun older e newer hindex hname => ?_⟩
  · rw [htable, if_neg]
    rw [entry?_none (by exact hnone)]
    decide
  obtain ⟨hentry, holder⟩ := entry?_of_index hnumbers hindex
  have hresolve : s.epoch.resolve (epochArg q.args) = e.number := hname.symm
  have hfound : (s.epoch.entry? (s.epoch.resolve (epochArg q.args))).isSome = true := by rw [hresolve, hentry]; rfl
  have hold : (s.epoch.target == some (s.epoch.resolve (epochArg q.args)) ||
      olderThanTarget s.epoch (s.epoch.resolve (epochArg q.args))) = true ↔ ∃ x ∈ e :: newer, s.epoch.target = some x.number := by
    rw [hresolve, Bool.or_eq_true, beq_iff_eq, olderThanTarget_iff hnumbers htarget hindex, List.exists_mem_cons_iff]
  refine ⟨fun hre hno => hrefused ?_ rfl, fun hgo => ?_⟩
  · rw [htable, if_pos (by exact hfound), if_pos]
    refine ⟨hretry.1 hre, ?_⟩
    rw [Bool.not_eq_true', ← Bool.not_eq_true]
    exact fun h => by obtain ⟨x, hx, ht⟩ := hold.1 h; exact hno x hx ht
  intro drained ordered done
  have hjudge : judgeEpochRollback { s with cmd.queue := rest } q.args = .started := by
    rw [htable, if_pos (by exact hfound), if_neg]
    rintro ⟨hre, hno⟩
    rw [Bool.not_eq_true', ← Bool.not_eq_true] at hno
    rcases hgo with h | h
    · rw [h] at hre; cases hre
    · exact hno (hold.2 h)
  have hack := not_noticeAck_of .started ho (by decide)
  have happly : applyRule epochRollbackRule q { s with cmd.queue := rest } =
      drainTest (answer (changeEpochRollback { s with cmd.queue := rest } q.args) q .started) :=
    applyRule_of_judge (rule := epochRollbackRule) hjudge rfl rfl
  obtain ⟨u, p, hframe, hhanded⟩ := answer_spec (changeEpochRollback { s with cmd.queue := rest } q.args) hack
  have hhanded : Handed s { s with notice := u, dlink.report := p } done := hhanded.congr rfl rfl rfl rfl rfl
  have hexec := exec_epochRollback hs ho
  rw [happly, hframe] at hexec
  refine ⟨_, hexec, fun hwait => ?_, fun hdrained => ?_⟩
  · rw [drainTest_waiting, settle_of_asked rfl]
    · refine ⟨?_, hhanded.congr rfl rfl rfl rfl rfl⟩
      rw [← hs.2]
      rfl
    · rw [not_and_or] at hwait
      exact hwait.imp_left fun h => Bool.eq_false_iff.2 (mt (noneBusy_iff _).1 h)
  · obtain ⟨hslots, hfrontier⟩ := hdrained
    refine drainTest_ended (u := ordered) (newer := newer) ?_ ?_ rfl ((noneBusy_iff _).2 hslots) hfrontier
      (congrArg some hname.symm) hindex hnumbers hlength
    · rw [← hs.2]
      rfl
    · exact hhanded.congr rfl rfl rfl rfl rfl

/-! ### EPOCH_RESUME -/

/-- What the command unit does with EPOCH_RESUME (R17). -/
def epochResumeRule : Rule := ⟨judgeEpochResume, changeEpochResume, fun s _ => lowWaterTest s⟩

theorem exec_epochResume {s : State} {q : QueuedCommand} {rest : List QueuedCommand} (hs : s.atRest) (ho : s.offers q rest 8) :
    exec .epochResume s = .next (settle (applyRule epochResumeRule q { s with cmd.queue := rest })) :=
  exec_command (isIt := fun b => b == Opcode.epochResume.code) (by simp) (by simp) hs ho rfl (by decide)

/-- The number after the current one, with none taken (R5). -/
theorem nextNumber_nil (current : EpochNo) : nextNumber current [] = if current + 1 = 0 then 1 else current + 1 := by
  simp only [nextNumber, List.length_nil, stepNumber, List.not_mem_nil, or_false]
  split
  · rename_i h
    rw [h]
    decide
  · rfl

theorem judgeEpochResume_ne_started (s : State) (l : Line) : judgeEpochResume s l ≠ .started := by
  unfold judgeEpochResume
  split_ifs <;> decide

/-- Settles O45: the judgement is R17's table, and an accepted resume opens a fresh epoch at head. -/
theorem epochResumeIsJudgedAndApplied : Obligations.EpochResumeIsJudgedAndApplied := by
  intro s q rest hs ho r number emptied
  have hjudge : judgeEpochResume { s with cmd.queue := rest } q.args = r :=
    if_congr Iff.rfl rfl (if_congr (by rw [Bool.not_eq_true']) rfl (if_congr (not_journalQuiet_iff _) rfl rfl))
  refine ⟨_, exec_epochResume hs ho, fun hr => ?_, fun hr => ?_⟩
  · exact refused_of_judge (rule := epochResumeRule) hs hjudge (Result.not_accepted hr (hjudge ▸ judgeEpochResume_ne_started _ _))
  · have hdone := hjudge.trans hr
    have hnumber : nextNumber s.epoch.current [] = number := nextNumber_nil _
    obtain ⟨u, p, hframe, hhanded⟩ := settle_accepted_tested (rule := epochResumeRule) (b := true) hs rfl hdone rfl rfl
      (not_noticeAck_of .done ho (by decide)) rfl
    rw [hframe, ← hnumber]
    exact ⟨rfl, hhanded.congr rfl rfl rfl rfl rfl⟩

end Sys2Proof.Machine
end

section
/-! PROOF. Commands of the notice unit and TIMING_SET (O46 to O48): NOTICE_SET (R171, R172), NOTICE_ACK (R173) and TIMING_SET (R153, R13,
R82, R96). -/

namespace Sys2Proof.Machine

/-! ### NOTICE_SET -/

/-- What the command unit does with NOTICE_SET (R171). -/
def noticeSetRule : Rule := ⟨judgeNoticeSet, changeNoticeSet, nothingAfter⟩

theorem exec_noticeSet {s : State} {q : QueuedCommand} {rest : List QueuedCommand} (hs : s.atRest) (ho : s.offers q rest 9) :
    exec .noticeSet s = .next (settle (applyRule noticeSetRule q { s with cmd.queue := rest })) :=
  exec_command (isIt := fun b => b == Opcode.noticeSet.code) (by simp) (by simp) hs ho rfl (by decide)

/-- A notice handed to a ring that is not ready begins no write (R169). -/
theorem handed_of_not_ready {s t : State} {b : NoticeBody × EpochNo} (hready : s.notice.ringReady = false) (hhanded : Handed s t [b]) :
    t.notice = { handOver s.mgmt.time s.notice b with inFlight := s.notice.inFlight } ∧ t.dlink.report = s.dlink.report := by
  obtain ⟨hnotice, hreport⟩ := hhanded
  simp only [NoticeUnit.beginsWrite, hready, Bool.and_false, Bool.false_eq_true, if_false, List.append_nil, List.foldl_cons,
    List.foldl_nil] at hnotice hreport
  exact ⟨hnotice, hreport⟩

/-- A ring that is ready writes its oldest notice, which may be the one handed over (R169, R172). -/
theorem handed_tryRingWrite_ready {v t : State} {b : NoticeBody × EpochNo} (hready : v.notice.ringReady = true)
    (hhanded : Handed (tryRingWrite v) t [b]) : ∃ m more, t.notice.buffer = m :: more ∧
      t.notice = { handOver v.mgmt.time v.notice b with inFlight := some v.notice.writePos } ∧
      t.dlink.report = v.dlink.report ++ [noticeWrite v.notice m v.notice.writePos] := by
  obtain ⟨⟨new, hnew⟩, -, -⟩ := foldl_handOver_buffer v.mgmt.time v.notice [b]
  cases hbuffer : v.notice.buffer with
  | nil =>
    rw [tryRingWrite_of_not_ready (.inl hbuffer)] at hhanded
    obtain ⟨hnotice, hreport⟩ := hhanded
    have hbegins : v.notice.beginsWrite [b] = true := by simp [NoticeUnit.beginsWrite, hbuffer, hready]
    have hfirst : (handOver v.mgmt.time v.notice b).buffer = [⟨b.1, v.notice.nextSeq, v.mgmt.time, b.2⟩] := by
      simp [handOver, hbuffer]
    simp only [hbegins, if_true, List.foldl_cons, List.foldl_nil] at hnotice hreport
    refine ⟨⟨b.1, v.notice.nextSeq, v.mgmt.time, b.2⟩, [], ?_, hnotice, ?_⟩
    · rw [hnotice]
      exact hfirst
    · rw [hreport, hfirst]
      rfl
  | cons m more =>
    have hwrite := tryRingWrite_cons hbuffer
    rw [if_pos hready] at hwrite
    rw [hwrite] at hhanded
    obtain ⟨hnotice, hreport⟩ := handed_of_not_ready (by simp [NoticeUnit.ringReady]) hhanded
    have hnotice : t.notice = { handOver v.mgmt.time v.notice b with inFlight := some v.notice.writePos } :=
      hnotice.trans (congrArg (fun u : NoticeUnit => { u with inFlight := some v.notice.writePos }) (handOver_inFlight ..))
    refine ⟨m, more ++ new, ?_, hnotice, hreport⟩
    rw [hnotice]
    exact hnew.trans (by rw [hbuffer]; rfl)

/-- The ring's state is in use (R171). -/
theorem ringBusy_iff (u : NoticeUnit) : (u.inFlight.isSome = true ∨ (u.configured = true ∧ u.unacked ≠ 0)) ↔
    u.inFlight ≠ none ∨ (u.configured = true ∧ u.writePos ≠ u.ackPos) := by
  rw [ne_eq, unacked_eq_zero_iff, Option.isSome_iff_ne_none]

/-- The notice area meets another (R171). -/
theorem ringOverlaps_iff (s : State) (a : Area) : ringOverlaps s a = true ↔
    (∃ i : Fin 16, meetsOpt a s.windows[i].area? = true) ∨ meetsOpt a s.commandArea? = true ∨ meetsOpt a s.journalArea? = true := by
  simp [ringOverlaps, meetsWindow_iff, or_assoc]

theorem judgeNoticeSet_ne_started (s : State) (l : Line) : judgeNoticeSet s l ≠ .started := by
  unfold judgeNoticeSet
  simp only
  split_ifs <;> decide

/-- The ring that NOTICE_SET configures, before the first write into it (R172). -/
def State.ringConfigured (s : State) (a : RingArgs) : State :=
  { s with notice := { s.notice with
      configured := true, base := BitVec.ofNat 48 a.base, size := a.size, threshold := a.threshold, tFlush := a.tFlush,
      urgent := BitVec.ofNat 16 a.urgent, writePos := 0, ackPos := 0, lastUrgent := none, flush := .stopped, pathStopped := false,
      attn := false } }

/-- A ring that is just configured has nothing unacknowledged, so ATTN is deasserted (R172, R174). -/
theorem changeNoticeSet_eq (s : State) (l : Line) : changeNoticeSet s l = tryRingWrite (s.ringConfigured (ringArgs l)) := by
  have hcondition : NoticeUnit.attnCondition { (s.ringConfigured (ringArgs l)).notice with attn := s.notice.attn } = false := by
    simp [State.ringConfigured, NoticeUnit.attnCondition, NoticeUnit.unacked]
  exact congrArg (fun b => tryRingWrite { s.ringConfigured (ringArgs l) with notice.attn := b }) hcondition

/-- Settles O46: the judgement is R171's table, and an accepted setting configures the ring and writes the oldest notice. -/
theorem noticeSetIsJudgedAndApplied : Obligations.NoticeSetIsJudgedAndApplied := by
  intro s q rest hs ho base size threshold tFlush urgent area wellFormed inUse overlap ring
  have hok : (!(ringArgs q.args).ok) = true ↔ ¬ wellFormed := by
    rw [Bool.not_eq_true', ← Bool.not_eq_true]
    exact not_congr (ringArgs_ok_iff _)
  have hbusy := ringBusy_iff s.notice
  have hover : ringOverlaps { s with cmd.queue := rest } area = true ↔ overlap := ringOverlaps_iff _ _
  have htable : judgeNoticeSet { s with cmd.queue := rest } q.args =
      if (!(ringArgs q.args).ok) = true then .badArgument
      else if s.notice.inFlight.isSome = true ∨ (s.notice.configured = true ∧ s.notice.unacked ≠ 0) then .busy
      else if ringOverlaps { s with cmd.queue := rest } area = true then .overlap else .done := rfl
  generalize hjudge : judgeNoticeSet { s with cmd.queue := rest } q.args = r at htable
  refine ⟨_, r, exec_noticeSet hs ho, fun hbad => ?_, fun hgood huse => ?_, fun hgood huse hmeet => ?_,
    fun hgood huse hmeet => ?_, fun hr => ?_, fun hr => ?_⟩
  · rw [htable, if_pos (hok.2 hbad)]
  · rw [htable, if_neg (fun h => hok.1 h hgood), if_pos (hbusy.2 huse)]
  · rw [htable, if_neg (fun h => hok.1 h hgood), if_neg (mt hbusy.1 huse), if_pos (hover.2 hmeet)]
  · rw [htable, if_neg (fun h => hok.1 h hgood), if_neg (mt hbusy.1 huse), if_neg (mt hover.1 hmeet)]
  · exact refused_of_judge (rule := noticeSetRule) hs hjudge
      (Result.not_accepted hr (hjudge ▸ judgeNoticeSet_ne_started { s with cmd.queue := rest } _))
  · subst hr
    obtain ⟨hgood, hidle, -⟩ := accepted_noticeSet (Result.accepted_iff.2 (.inl hjudge))
    obtain ⟨-, hsize, -⟩ := (ringArgs_ok_iff _).1 hgood
    obtain ⟨hlow, -⟩ := ringSize_bounds hsize
    obtain ⟨n, p, hframe, hhanded⟩ := settle_accepted (rule := noticeSetRule) (b := s.status.asked) hs rfl hjudge rfl
      (changeNoticeSet_eq _ _) (not_noticeAck_of .done ho (by decide))
      (by rw [tryRingWrite_frame]; rfl)
    generalize hw : State.ringConfigured { s with cmd.queue := rest } (ringArgs q.args) = w at *
    have hready : w.notice.ringReady = true := by
      rw [← hw]
      refine (ringReady_iff rfl rfl (by exact hidle)).2 ?_
      show (0 - 0 : Seq).toNat < (ringArgs q.args).size
      rw [BitVec.sub_self, BitVec.toNat_zero]
      omega
    obtain ⟨m, more, hbuffer, hnotice, hreport⟩ := handed_tryRingWrite_ready hready hhanded
    have hfirst : noticeWrite w.notice m w.notice.writePos =
        ⟨.write, BitVec.ofNat 48 base, 32, m.bytes 0, List.replicate 32 true, .notice⟩ := by
      rw [← hw]
      simp [State.ringConfigured, noticeWrite, NoticeUnit.entryAddr, NoticeUnit.lap, ringArgs, base]
    have hwrite := tryRingWrite_frame w
    generalize (tryRingWrite w).notice.inFlight = f, (tryRingWrite w).dlink.report = g at hwrite
    rw [hwrite, ← hw] at hnotice
    rw [hfirst, ← hw] at hreport
    rw [hframe, hwrite, ← hw]
    refine ⟨m, more, hbuffer, ?_⟩
    have hnotice : n = _ := hnotice
    have hreport : p = _ := hreport
    rw [hnotice, hreport]
    rfl

/-! ### NOTICE_ACK -/

/-- What the command unit does with NOTICE_ACK (R173). -/
def noticeAckRule : Rule := ⟨judgeNoticeAck, changeNoticeAck, nothingAfter⟩

theorem exec_noticeAck {s : State} {q : QueuedCommand} {rest : List QueuedCommand} (hs : s.atRest) (ho : s.offers q rest 10) :
    exec .noticeAck s = .next (settle (applyRule noticeAckRule q { s with cmd.queue := rest })) :=
  exec_command (isIt := fun b => b == Opcode.noticeAck.code) (by simp) (by simp) hs ho rfl (by decide)

/-- An accepted NOTICE_ACK posts no COMMAND_DONE (R151). -/
theorem answer_noticeAck {q : QueuedCommand} (v : State) (hopcode : q.opcode = Opcode.noticeAck.code) : answer v q .done =
    { v with cmd := ⟨v.cmd.queue, v.cmd.taken + 1, some ⟨q.tag, q.opcode, .done⟩⟩, status.asked := true } :=
  congrArg askStatus (if_pos ⟨hopcode, rfl⟩)

/-- The acknowledged position moved to `p`, before ATTN and the ring write follow (R173, R175). -/
def State.acknowledged (s : State) (p : Seq) : State :=
  { s with notice.ackPos := p, notice.flush := if s.notice.writePos = p then .stopped else s.notice.flush }

theorem changeNoticeAck_eq (s : State) (l : Line) :
    changeNoticeAck s l = tryRingWrite (updateAttn (s.acknowledged (positionArg l))) := by
  have hread : ({ s.notice with ackPos := positionArg l } : NoticeUnit).unacked = 0 ↔ s.notice.writePos = positionArg l :=
    unacked_eq_zero_iff _
  unfold changeNoticeAck State.acknowledged
  simp only [hread]
  split <;> rfl

/-- ATTN's condition (R174). -/
theorem attnCondition_iff_stopped_or {u : NoticeUnit} : u.attnCondition = true ↔ u.pathStopped = true ∨
    (0 < u.unacked ∧ (u.threshold ≤ u.unacked ∨ u.flush = .expired ∨
      ∃ x, u.lastUrgent = some x ∧ (x - u.ackPos).toNat < u.unacked)) := by
  cases hpath : u.pathStopped with
  | false => rw [attnCondition_iff hpath]; simp
  | true => simp [NoticeUnit.attnCondition, hpath]

/-- Settles O47: the position is judged, and an accepted one moves, sets ATTN by its condition and may let a write begin. -/
theorem noticeAckIsJudgedAndApplied : Obligations.NoticeAckIsJudgedAndApplied := by
  intro s q rest hs ho u p count flush writes
  refine ⟨fun hfar => ?_, fun hnear => ?_⟩
  · have hjudge : judgeNoticeAck { s with cmd.queue := rest } q.args = .badArgument := if_neg (Nat.not_le.2 hfar)
    exact ⟨_, exec_noticeAck hs ho, refused_of_judge (rule := noticeAckRule) hs hjudge rfl⟩
  have hjudge : judgeNoticeAck { s with cmd.queue := rest } q.args = .done := if_pos hnear
  have hexec := exec_noticeAck hs ho
  obtain ⟨-, -, hopcode⟩ := ho
  generalize hw : updateAttn (State.acknowledged { s with cmd.queue := rest } p) = w
  have hchange : noticeAckRule.change { s with cmd.queue := rest } q.args = tryRingWrite w := by
    rw [← hw]
    exact changeNoticeAck_eq _ _
  have happly : applyRule noticeAckRule q { s with cmd.queue := rest } = answer (tryRingWrite w) q .done :=
    applyRule_of_judge hjudge rfl hchange
  rw [happly, answer_noticeAck _ hopcode, settle_of_asked rfl] at hexec
  have wready : w.notice.ringReady = true ↔ writes := by
    rw [← hw]
    show (s.notice.configured && !s.notice.pathStopped && s.notice.inFlight.isNone && decide (count < s.notice.size)) = true ↔ _
    simp only [Bool.and_eq_true, Bool.not_eq_true', Option.isNone_iff_eq_none, decide_eq_true_eq, and_assoc]
    exact Iff.rfl
  refine ⟨_, hexec, ?_, ?_, fun hidle => ?_, fun m more hgo hbuffer => ?_⟩
  · have hframe := tryRingWrite_frame w
    generalize (tryRingWrite w).notice.inFlight = f, (tryRingWrite w).dlink.report = g at hframe
    rw [hframe, ← hw, ← hs.2]
    rfl
  · show (tryRingWrite w).notice.attn = true ↔ _
    rw [tryRingWrite_frame, ← hw]
    exact attnCondition_iff_stopped_or
  · show (tryRingWrite w).notice.inFlight = _ ∧ (tryRingWrite w).dlink.report = _
    rw [tryRingWrite_of_not_ready (hidle.symm.imp (by rw [← hw]; exact id) fun h => Bool.eq_false_iff.2 (mt wready.1 h)), ← hw]
    exact ⟨rfl, rfl⟩
  · show (tryRingWrite w).notice.inFlight = _ ∧ (tryRingWrite w).dlink.report = _
    have hwrite := tryRingWrite_cons (s := w) (n := m) (rest := more) (by rw [← hw]; exact hbuffer)
    rw [if_pos (wready.2 hgo)] at hwrite
    rw [hwrite, ← hw]
    exact ⟨rfl, rfl⟩

/-! ### TIMING_SET -/

/-- What the command unit does with TIMING_SET (R153). -/
def timingSetRule (lwmFirst : Bool) : Rule := ⟨judgeTimingSet, changeTimingSet, afterTimingSet lwmFirst⟩

theorem exec_timingSet {s : State} {q : QueuedCommand} {rest : List QueuedCommand} (lwmFirst : Bool) (hs : s.atRest)
    (ho : s.offers q rest 11) :
    exec (.timingSet lwmFirst) s = .next (settle (applyRule (timingSetRule lwmFirst) q { s with cmd.queue := rest })) :=
  exec_command (isIt := fun b => b == Opcode.timingSet.code) (by simp) (by simp) hs ho rfl (by decide)

/-- The quiet timer under a new tQUIET (R13). -/
theorem retimeQuiet_eq (old new : Nat) (t : QuietTimer) : retimeQuiet old new t =
    if new = 0 ∨ t = .stopped then .stopped else if new = old then t else .running (new * 1000) := by
  unfold retimeQuiet
  cases t with
  | stopped => split_ifs <;> simp_all
  | running n => split_ifs <;> simp_all [quietFull]

theorem expireAll_none {s : State} (fuel : Nat) (h : ∀ e ∈ s.hold.entries, s.expiryDue e = false) : expireAll fuel s = s := by
  have hnone : s.hold.entries.find? (fun e => s.expiryDue e) = none :=
    List.find?_eq_none.2 fun e he => Bool.eq_false_iff.1 (h e he)
  cases fuel with
  | zero => rfl
  | succ fuel => simp only [expireAll, hnone]

/-- A lone entry that is due expires, and its pass follows (R96). -/
theorem expireAll_lone {s : State} {e : HeldEntry} (fuel : Nat) (hentries : s.hold.entries = [e]) (hdue : s.expiryDue e = true) :
    expireAll (fuel + 1) s = expireAll fuel (runPass (expireNow s e)) := by
  simp only [expireAll, hentries, List.find?_cons, hdue]

/-- A tHOLD that no held entry is at, or that is not lowered, sets nothing further in motion (R96). -/
theorem applyHold_calm {s : State} {tHold : Nat}
    (h : s.hold.tHold ≤ tHold ∨ ∀ e ∈ s.hold.entries, ¬ tHold ≤ (s.mgmt.time - e.arrival).toNat) :
    applyHold s tHold = { s with hold.tHold := tHold } := by
  unfold applyHold
  rcases h with h | h
  · exact if_neg (Nat.not_lt.2 h)
  · have hnone : ∀ e ∈ s.hold.entries, State.expiryDue { s with hold.tHold := tHold } e = false :=
      fun e he => Bool.eq_false_iff.2 fun hdue => h e he ((expiryDue_iff _ _).1 hdue).1
    simp only [expireAll_none (s := { s with hold.tHold := tHold }) _ hnone, ite_self]

/-- The journal unit's part of an accepted TIMING_SET (R82, R81). -/
theorem applyLwm_spec (s : State) (lwm : Nat) :
    let marked : Journal := { s.journal with lwm := lwm }
    let tested : Prop := lwm ≠ s.journal.lwm ∧ s.mgmt.device = .running
    ∃ n p, applyLwm s lwm =
        { s with journal := { marked with armed := if tested then marked.armedAfter else s.journal.armed }
                 notice := n, dlink.report := p } ∧
      Handed s { s with notice := n, dlink.report := p } (if tested then marked.lowNotices s.epoch.current else []) := by
  intro marked tested
  by_cases htested : tested
  · have hlow := lowWaterTest_frame { s with journal.lwm := lwm }
    have hhanded := lowWaterTest_handed { s with journal.lwm := lwm }
    have happly : applyLwm s lwm = lowWaterTest { s with journal.lwm := lwm } := if_pos htested
    rw [happly, if_pos htested, if_pos htested]
    exact ⟨_, _, hlow, hhanded.congr rfl rfl rfl rfl rfl⟩
  · rw [if_neg htested, if_neg htested]
    exact ⟨s.notice, s.dlink.report, if_neg htested, Handed.of_eq rfl rfl⟩

/-- What follows the answer to TIMING_SET where no entry expires: the two owners do not touch each other's items (R153, R96). -/
theorem afterTimingSet_calm {s : State} {l : Line} (lwmFirst : Bool)
    (h : s.hold.tHold ≤ (timingArgs l).tHold ∨
      ∀ e ∈ s.hold.entries, ¬ (timingArgs l).tHold ≤ (s.mgmt.time - e.arrival).toNat) :
    let marked : Journal := { s.journal with lwm := (timingArgs l).lwm }
    let tested : Prop := (timingArgs l).lwm ≠ s.journal.lwm ∧ s.mgmt.device = .running
    ∃ n p, afterTimingSet lwmFirst s l =
        { s with hold.tHold := (timingArgs l).tHold
                 journal := { marked with armed := if tested then marked.armedAfter else s.journal.armed }
                 notice := n, dlink.report := p } ∧
      Handed s { s with notice := n, dlink.report := p } (if tested then marked.lowNotices s.epoch.current else []) := by
  intro marked tested
  cases lwmFirst with
  | true =>
    obtain ⟨n, p, hframe, hhanded⟩ := applyLwm_spec s (timingArgs l).lwm
    refine ⟨n, p, ?_, hhanded⟩
    show applyHold (applyLwm s (timingArgs l).lwm) (timingArgs l).tHold = _
    rw [hframe, applyHold_calm (by exact h)]
  | false =>
    obtain ⟨n, p, hframe, hhanded⟩ := applyLwm_spec { s with hold.tHold := (timingArgs l).tHold } (timingArgs l).lwm
    refine ⟨n, p, ?_, hhanded.congr rfl rfl rfl rfl rfl⟩
    show applyLwm (applyHold s (timingArgs l).tHold) (timingArgs l).lwm = _
    rw [applyHold_calm h, hframe]

/-- With LWM unchanged, TIMING_SET's lowered tHOLD alone acts behind the answer (R96). -/
theorem afterTimingSet_sameLwm {s t : State} {l : Line} (lwmFirst : Bool) (hlwm : (timingArgs l).lwm = s.journal.lwm)
    (happly : applyHold s (timingArgs l).tHold = t) (hkept : t.journal = s.journal) : afterTimingSet lwmFirst s l = t := by
  have hsame (u : State) (h : u.journal.lwm = (timingArgs l).lwm) : applyLwm u (timingArgs l).lwm = u := by
    unfold applyLwm
    simp only
    rw [if_neg fun hne => hne.1 h.symm, ← h]
  cases lwmFirst with
  | true => exact (congrArg (fun u => applyHold u (timingArgs l).tHold) (hsame s hlwm.symm)).trans happly
  | false => exact (congrArg (fun u => applyLwm u (timingArgs l).lwm) happly).trans (hsame t (by rw [hkept, hlwm]))

/-- A lone entry under a tHOLD that it has reached expires, with its pass (R96). -/
theorem applyHold_lone {s : State} {e : HeldEntry} {tHold : Nat} (hlower : tHold < s.hold.tHold) (hentries : s.hold.entries = [e])
    (hreached : tHold ≤ (s.mgmt.time - e.arrival).toNat) (hfresh : ¬ (e.cause = .journalFull ∧ e.exhausted = true)) :
    applyHold s tHold = expireAll 1 (runPass (expireNow { s with hold.tHold := tHold } e)) := by
  have hall : applyHold s tHold = expireAll (2 * s.hold.entries.length) { s with hold.tHold := tHold } := if_pos hlower
  rw [hall, hentries]
  exact expireAll_lone 1 hentries ((expiryDue_iff _ _).2 ⟨hreached, hfresh⟩)

/-- A pass over an empty queue changes nothing. -/
theorem runPass_nil {s : State} (h : s.hold.entries = []) : runPass s = s := by
  rw [runPass, h, judgeEntries, ← h]

/-- The expiry of a lone fenced entry under a lowered tHOLD (R96, R92). -/
theorem applyHold_fence {s : State} {e : HeldEntry} {tHold : Nat} (hlower : tHold < s.hold.tHold) (hentries : s.hold.entries = [e])
    (hreached : tHold ≤ (s.mgmt.time - e.arrival).toNat) (hcause : e.cause = .fence) (hout : e.request.id ∈ s.ulink.outstanding) :
    ∃ n p, applyHold s tHold =
        { s with hold.tHold := tHold, hold.entries := []
                 ulink := ⟨s.ulink.outstanding.filter (fun x => x != e.request.id),
                   s.ulink.returned ++ [⟨e.request.kind, e.request.id, .fenced, []⟩]⟩
                 notice := n, dlink.report := p } ∧
      Handed s { s with notice := n, dlink.report := p }
        [(.holdExpired .fence e.request.kind e.request.id e.request.addr e.window, s.epoch.current)] := by
  rw [applyHold_lone hlower hentries hreached (by simp [hcause])]
  generalize hb : NoticeBody.holdExpired .fence e.request.kind e.request.id e.request.addr e.window = b
  have hexpire : expireNow { s with hold.tHold := tHold } e = post
      (respond { s with hold.tHold := tHold, hold.entries := [] } e.request.kind e.request.id .fenced []) b := by
    have hleft : s.hold.entries.filter (fun x => x.request.id != e.request.id) = [] := by simp [hentries]
    simp only [expireNow, hcause, expireEntry, hleft, hb, expiryStatus]
  rw [respond_of_mem (by exact hout)] at hexpire
  generalize hX : ({ s with
    hold.tHold := tHold, hold.entries := []
    ulink := ⟨s.ulink.outstanding.filter (fun x => x != e.request.id),
      s.ulink.returned ++ [⟨e.request.kind, e.request.id, .fenced, []⟩]⟩ } : State) = X at hexpire ⊢
  have hframe := post_frame X b
  have hhanded := handed_post X b
  rw [hexpire]
  generalize post X b = P at *
  have hempty : P.hold.entries = [] := by rw [hframe, ← hX]
  rw [runPass_nil hempty, expireAll_none 1 (by simp [hempty])]
  rw [← hX] at hhanded hframe
  exact ⟨P.notice, P.dlink.report, hframe, hhanded.congr rfl rfl rfl rfl rfl⟩

/-- A break outside of a pass that allows no retry (R4). -/
theorem breakEngine_exhausted (s : State) : ∃ n p, breakEngine s .exhausted =
    { s with epoch.engine := .broken .exhausted, epoch.target := none, status.asked := true, notice := n, dlink.report := p } := by
  have hpost := post_frame { s with epoch.engine := .broken .exhausted, epoch.target := none } (.epochBroken .exhausted s.epoch.current)
  exact ⟨_, _, congrArg askStatus hpost⟩

/-- The expiry of a lone JOURNAL_FULL entry under a lowered tHOLD breaks a CAPTURING engine, and its pass forwards the entry (R96, R98). -/
theorem applyHold_journalFull {s : State} {e : HeldEntry} {tHold : Nat} (hlower : tHold < s.hold.tHold)
    (hentries : s.hold.entries = [e]) (hreached : tHold ≤ (s.mgmt.time - e.arrival).toNat) (hcause : e.cause = .journalFull)
    (hfresh : e.exhausted = false) (hengine : s.epoch.engine = .capturing)
    (hfree : s.capture.holdsGranule (granuleOf e.request.addr) = false) :
    ∃ n p, applyHold s tHold =
        { s with hold.tHold := tHold, hold.entries := [], epoch.engine := .broken .exhausted, epoch.target := none
                 status.asked := true
                 dlink.forward := s.dlink.forward ++ [⟨e.request.kind, e.request.addr, e.request.length, e.request.data,
                   e.request.mask, .forwarded e.request.id e.request.kind false true⟩]
                 notice := n, dlink.report := p } ∧
      Handed s { s with notice := n, dlink.report := p } [(.epochBroken .exhausted s.epoch.current, s.epoch.current)] := by
  rw [applyHold_lone hlower hentries hreached (by simp [hfresh])]
  have hexpire : expireNow { s with hold.tHold := tHold } e =
      breakEngine { s with hold.tHold := tHold, hold.entries := [{ e with exhausted := true }] } .exhausted := by
    simp [expireNow, hcause, markExhausted, hentries, hengine]
  have hhanded := breakEngine_handed { s with hold.tHold := tHold, hold.entries := [{ e with exhausted := true }] } .exhausted
  obtain ⟨n, p, hframe⟩ := breakEngine_exhausted { s with hold.tHold := tHold, hold.entries := [{ e with exhausted := true }] }
  rw [hexpire, hframe]
  rw [hframe] at hhanded
  refine ⟨n, p, ?_, hhanded.congr rfl rfl rfl rfl rfl⟩
  have hpass := judgeEntries_forward [{ e with exhausted := true }]
    { s with hold.tHold := tHold, hold.entries := [{ e with exhausted := true }], epoch.engine := .broken .exhausted
             epoch.target := none, status.asked := true, notice := n, dlink.report := p } rfl (by simp) (by simpa using hfree)
  rw [runPass, hpass, expireAll_none 1 (by simp)]
  rfl

/-- The state when an accepted TIMING_SET has stored tQUIET and is answered, with the notice unit and the REPORT class the answer leaves
(R153, R13). -/
def State.timed (s : State) (q : QueuedCommand) (rest : List QueuedCommand) (n : NoticeUnit) (p : List DRequest) : State :=
  { s with
    cmd := ⟨rest, s.cmd.taken + 1, some ⟨q.tag, q.opcode, .done⟩⟩, status.asked := true
    epoch.tQuiet := (timingArgs q.args).tQuiet
    epoch.quiet := if (timingArgs q.args).tQuiet = 0 ∨ s.epoch.quiet = .stopped then .stopped
      else if (timingArgs q.args).tQuiet = s.epoch.tQuiet then s.epoch.quiet
      else .running ((timingArgs q.args).tQuiet * 1000)
    notice := n, dlink.report := p }

/-- An accepted TIMING_SET: tQUIET and the answer, then what the other two values set in motion (R153). -/
theorem applyRule_timingSet {s : State} {q : QueuedCommand} {rest : List QueuedCommand} (lwmFirst : Bool)
    (hack : ¬ (q.opcode = Opcode.noticeAck.code ∧ Result.done.accepted = true))
    (hjudge : judgeTimingSet { s with cmd.queue := rest } q.args = .done) :
    ∃ n p, applyRule (timingSetRule lwmFirst) q { s with cmd.queue := rest } =
        afterTimingSet lwmFirst (s.timed q rest n p) q.args ∧
      Handed s { s with notice := n, dlink.report := p } [(.commandDone q.tag q.opcode .done, s.epoch.current)] := by
  obtain ⟨n, p, hframe, hhanded⟩ := answer_spec (changeTimingSet { s with cmd.queue := rest } q.args) hack
  refine ⟨n, p, ?_, hhanded.congr rfl rfl rfl rfl rfl⟩
  rw [applyRule_of_judge (rule := timingSetRule lwmFirst) hjudge rfl rfl]
  refine congrArg (fun v => afterTimingSet lwmFirst v q.args) (hframe.trans ?_)
  rw [State.timed, ← retimeQuiet_eq]
  rfl

/-- Settles O48: the judgement, then the stored values, then what LWM and a lowered tHOLD set in motion. -/
theorem timingSetIsJudgedAndApplied : Obligations.TimingSetIsJudgedAndApplied := by
  intro s q rest lwmFirst hs ho tHold tQuiet lwm bad quiet marked tested stored done reached
  have hexec := exec_timingSet lwmFirst hs ho
  have haccepted (hgood : ¬ bad) := applyRule_timingSet (s := s) (rest := rest) lwmFirst (not_noticeAck_of .done ho (by decide))
    (if_neg hgood)
  refine ⟨fun hbad => ?_, fun hgood hcalm => ?_, fun hgood hlower hlwm e hentries hreached => ?_⟩
  · have hjudge : judgeTimingSet { s with cmd.queue := rest } q.args = .badArgument := if_pos hbad
    exact ⟨_, hexec, refused_of_judge (rule := timingSetRule lwmFirst) hs hjudge rfl⟩
  · obtain ⟨n, p, happly, hdone⟩ := haccepted hgood
    obtain ⟨n', p', hafter, hhanded⟩ := afterTimingSet_calm (s := s.timed q rest n p) (l := q.args) lwmFirst hcalm
    rw [happly, hafter, settle_of_asked rfl] at hexec
    refine ⟨_, hexec, ?_, (hdone.trans (hhanded.congr rfl rfl rfl rfl rfl) rfl).congr rfl rfl rfl rfl rfl⟩
    rw [← hs.2]
    rfl
  · obtain ⟨n, p, happly, hdone⟩ := haccepted hgood
    have hjournal : s.journal = { marked with armed := if tested then marked.armedAfter else s.journal.armed } := by
      rw [if_neg fun h : tested => h.1 hlwm]
      show s.journal = { s.journal with lwm := lwm }
      rw [hlwm]
    refine ⟨fun hcause hout => ?_, fun hcause hfresh hengine hfree => ?_⟩
    · obtain ⟨n', p', hhold, hhanded⟩ := applyHold_fence (s := s.timed q rest n p) hlower hentries hreached hcause hout
      rw [happly, afterTimingSet_sameLwm (s := s.timed q rest n p) lwmFirst hlwm hhold rfl, settle_of_asked rfl] at hexec
      refine ⟨_, hexec, ?_, (hdone.trans (hhanded.congr rfl rfl rfl rfl rfl) rfl).congr rfl rfl rfl rfl rfl⟩
      show _ = { stored with
        journal := { marked with armed := if tested then marked.armedAfter else s.journal.armed }
        hold.entries := _, ulink := _, notice := _, dlink.report := _ }
      rw [← hjournal, ← hs.2]
      rfl
    · have hbusy : s.capture.holdsGranule (granuleOf e.request.addr) = false :=
        Bool.eq_false_iff.2 fun h => by
          obtain ⟨i, c, hc, hg⟩ := (holdsGranule_iff _ _).1 h
          exact hfree i c hc hg
      obtain ⟨n', p', hhold, hhanded⟩ := applyHold_journalFull (s := s.timed q rest n p) hlower hentries hreached hcause hfresh
        hengine hbusy
      rw [happly, afterTimingSet_sameLwm (s := s.timed q rest n p) lwmFirst hlwm hhold rfl, settle_of_asked rfl] at hexec
      refine ⟨_, hexec, ?_, (hdone.trans (hhanded.congr rfl rfl rfl rfl rfl) rfl).congr rfl rfl rfl rfl rfl⟩
      show _ = { stored with
        journal := { marked with armed := if tested then marked.armedAfter else s.journal.armed }
        hold.entries := _, epoch.engine := _, epoch.target := _, dlink.forward := _, notice := _, dlink.report := _ }
      rw [← hjournal, ← hs.2]
      rfl

end Sys2Proof.Machine
end

section
/-! PROOF. The management port (O50, O51, O53): CONTROL (R182, R188), the other registers (R181, R183, R184, R186), and the frames they
are reached by (R180, R185, R198). -/

namespace Sys2Proof.Machine

/-! ### CONTROL -/

/-- The end of an action that asked for a status block (R156). -/
theorem settle_of_asking {s t : State} (hs : s.atRest) (h : t.status = { s.status with asked := true }) :
    settle t = { t with status := { s.status with requests := s.status.requests + 1 } } := by
  rw [settle_of_asked (by rw [h]), h, ← hs.2]

theorem writeControl_enable_offline {s : State} (h : s.mgmt.device = .offline) : writeControl s true = enterListening s := by
  simp only [writeControl, h]

theorem writeControl_disable_listening {s : State} (h : s.mgmt.device = .listening) : writeControl s false = leaveListening s := by
  simp only [writeControl, h]

theorem writeControl_disable_running {s : State} (h : s.mgmt.device = .running) : writeControl s false = refuseWrite s := by
  simp only [writeControl, h]

theorem writeControl_disable_offline {s : State} (h : s.mgmt.device = .offline) : writeControl s false = s := by
  simp only [writeControl, h]

theorem writeControl_enable_live {s : State} (h : s.mgmt.device ≠ .offline) : writeControl s true = s := by
  unfold writeControl
  cases hdevice : s.mgmt.device with
  | offline => exact absurd hdevice h
  | listening => rfl
  | running => rfl

/-- Settles O50: the six cases of a CONTROL write. -/
theorem controlWriteMovesTheDevice : Obligations.ControlWriteMovesTheDevice := by
  intro s hs taken u
  refine ⟨fun hdevice => ?_, fun hdevice => ?_, fun hdevice => ?_, fun hdevice => ?_, fun hdevice => ?_⟩
  · have heffect : effectOf (.cwEnable true) s = _ := writeControl_enable_offline (s := writeFrame s) hdevice
    rw [exec_settled (by simp) (by simp) hs heffect, settle_of_asking hs rfl]
    rfl
  · exact exec_of_effect (by simp) (by simp) hs (writeControl_disable_listening (s := writeFrame s) hdevice) hs.2
  · exact exec_of_effect (by simp) (by simp) hs (writeControl_disable_running (s := writeFrame s) hdevice) hs.2
  · exact exec_of_effect (by simp) (by simp) hs (writeControl_disable_offline (s := writeFrame s) hdevice) hs.2
  · exact exec_of_effect (by simp) (by simp) hs (writeControl_enable_live (s := writeFrame s) hdevice) hs.2

/-! ### The bits of a frame -/

theorem frameWrites_of_head? {bits : List Bool} {b : Bool} (h : bits.head? = some b) : frameWrites bits = b := by
  cases bits with
  | nil => cases h
  | cons a l => simpa [frameWrites] using h

/-- The bits that a frame drives on data out: those of the register a read names, most significant first, and 0 (R180, R185). -/
theorem drivenOf_eq (s : State) {bits : List Bool} {reg : BitVec 4} (hreg : ∀ k < 4, reg.getLsbD k = bits.getD (7 - k) false) :
    drivenOf s bits = List.ofFn (fun k : Fin (bits.length - 8) =>
      decide (k.val < 32) && (bits.head? == some false && (s.mgmtRead reg).getLsbD (31 - k.val))) := by
  refine List.ext_getElem (by simp [drivenOf]) fun k hk _ => ?_
  have hlength : 8 ≤ bits.length := by simp [drivenOf] at hk; omega
  have hread : (captureOf s bits).getLsbD (31 - k) = (bits.head? == some false && (s.mgmtRead reg).getLsbD (31 - k)) := by
    obtain ⟨b, hb⟩ : ∃ b, bits.head? = some b := by
      cases bits with
      | nil => simp at hlength
      | cons b l => exact ⟨b, rfl⟩
    rw [captureOf, frameRegister_eq hlength hreg, frameWrites_of_head? hb, hb]
    cases b <;> simp [hlength]
  simp [drivenOf, hread]

/-! ### Registers -/

/-- Each bit of CMD_STREAMS after a write of one half (R184). -/
theorem getLsbD_storeStreams (set : BitVec 64) (half : RegHalf) (data : BitVec 32) {k : Nat} (hk : k < 32) :
    (storeStreams set half data).getLsbD k = (if half = .lo then data.getLsbD k else set.getLsbD k) ∧
    (storeStreams set half data).getLsbD (32 + k) = (if half = .hi then data.getLsbD k else set.getLsbD (32 + k)) := by
  have happend (x y : BitVec 32) (i : Nat) : (x ++ y).getLsbD i = if i < 32 then y.getLsbD i else x.getLsbD (i - 32) :=
    BitVec.getLsbD_append
  cases half with
  | lo =>
    refine ⟨(happend _ _ k).trans (by simp [hk]), (happend _ _ (32 + k)).trans ?_⟩
    simp [hk]
  | hi =>
    refine ⟨(happend _ _ k).trans ?_, (happend _ _ (32 + k)).trans (by simp [hk])⟩
    simp [hk]

theorem storeBase_toNat (base : Addr) (half : RegHalf) (data : BitVec 32) : (storeBase base half data).toNat =
    (match half with
      | .lo => base.toNat / 4294967296 * 4294967296 + data.toNat / 4096 * 4096
      | .hi => data.toNat % 65536 * 4294967296 + base.toNat % 4294967296) := by
  cases half with
  | lo => exact storeBase_lo_toNat base data
  | hi => exact storeBase_hi_toNat base data

/-- A frame given up before its fortieth bit (R180). -/
theorem abandonFrame_eq (s : State) {bits : List Bool} (hlength : bits.length < 40) :
    abandonFrame s bits = { s with mgmt.frame := none, mgmt.dout := drivenOf s bits } := by
  have hpending : pendingOf s bits = s.pending := if_neg fun h => by omega
  rw [abandonFrame, if_pos hlength, foldl_clockBit, hpending]
  rfl

/-- Settles O51: each write is one assignment, or a refusal. -/
theorem managementWritesReachTheirRegisters : Obligations.ManagementWritesReachTheirRegisters := by
  intro s hs taken
  refine ⟨fun half data => ⟨fun hdevice => ?_, fun hdevice => ?_, ?_⟩, fun data => ?_, fun reg data hreg => ?_,
    fun bits reg hlength hreg => ?_⟩
  · exact exec_of_effect (c := .cwBaseWrite half data) (by simp) (by simp) hs (if_neg hdevice) hs.2
  · have heffect : effectOf (.cwBaseWrite half data) s = _ := if_pos hdevice
    refine ⟨_, exec_of_effect (by simp) (by simp) hs heffect hs.2, rfl, ?_⟩
    refine (storeBase_toNat s.mgmt.cwBase half data).trans ?_
    cases half <;> rfl
  · exact ⟨_, exec_of_effect (c := .cmdStreamsWrite half data) (by simp) (by simp) hs rfl hs.2, rfl,
      fun k hk => getLsbD_storeStreams s.mgmt.cmdStreams half data hk⟩
  · exact exec_of_effect (c := .faultWrite data) (by simp) (by simp) hs rfl hs.2
  · exact exec_of_effect (c := .mgmtWriteRefused reg data) (by simp) (by simp) hs (if_pos hreg) hs.2
  · have hdriven : drivenOf s bits = List.ofFn (fun k : Fin (bits.length - 8) =>
        bits.head? == some false && (s.mgmtRead reg).getLsbD (31 - k.val)) := by
      rw [drivenOf_eq s hreg]
      refine congrArg List.ofFn (funext fun k => ?_)
      have hk : k.val < 32 := by have := k.isLt; omega
      rw [decide_eq_true hk, Bool.true_and]
    rw [← hdriven]
    exact exec_of_effect (by simp) (by simp) hs (abandonFrame_eq s hlength) hs.2

/-! ### Frames -/

/-- The command that a write frame is (R181, R182). -/
theorem registerWrite_eq (reg : BitVec 4) (data : BitVec 32) : registerWrite reg data =
    if reg = 1 then (if data.getLsbD 1 then .softReset (data.getLsbD 0) else .cwEnable (data.getLsbD 0))
    else if reg = 2 then .cwBaseWrite .lo data
    else if reg = 3 then .cwBaseWrite .hi data
    else if reg = 4 then .cmdStreamsWrite .lo data
    else if reg = 5 then .cmdStreamsWrite .hi data
    else if reg = 8 then .faultWrite data
    else .mgmtWriteRefused reg data := by
  unfold registerWrite
  simp only [BitVec.toNat_eq (x := reg)]
  split <;> simp_all

/-- What STATE reads (R185). -/
theorem mgmtRead_state (s : State) : (s.mgmtRead 6).toNat =
    s.mgmt.device.code + 256 * s.epoch.engine.code + 65536 * s.epoch.engine.causeCode := by
  have hdevice : s.mgmt.device.code ≤ 2 := by cases s.mgmt.device <;> decide
  have hengine : s.epoch.engine.code ≤ 4 := by
    cases s.epoch.engine with
    | broken c => exact le_rfl
    | _ => decide
  have hcause : s.epoch.engine.causeCode ≤ 4 := by
    cases s.epoch.engine with
    | broken c => cases c <;> decide
    | _ => decide
  show (BitVec.ofNat 32 _).toNat = _
  rw [BitVec.toNat_ofNat]
  exact Nat.mod_eq_of_lt (by omega)

/-- What FAULT reads (R186). -/
theorem mgmtRead_fault (s : State) : (s.mgmtRead 8).toNat = s.mgmt.fault.code := by
  have hcode : s.mgmt.fault.code ≤ 7 := by
    unfold FaultBits.code
    split_ifs <;> decide
  show (BitVec.ofNat 32 _).toNat = _
  rw [BitVec.toNat_ofNat]
  exact Nat.mod_eq_of_lt (by omega)

theorem mgmtRead_unassigned (s : State) {reg : BitVec 4} (h : 9 ≤ reg.toNat) : s.mgmtRead reg = 0 := by
  unfold State.mgmtRead
  split
  case h_10 => rfl
  all_goals omega

theorem causeCode_eq (e : Engine) : e.causeCode = (match e with | .broken cause => cause.code | _ => 0) := by cases e <;> rfl

/-- What the registers of CW_BASE read (R185). -/
theorem mgmtRead_base (s : State) : (s.mgmtRead 2).toNat = s.mgmt.cwBase.toNat % 4294967296 ∧
    (s.mgmtRead 3).toNat = s.mgmt.cwBase.toNat / 4294967296 := by
  have hbase := s.mgmt.cwBase.isLt
  refine ⟨BitVec.toNat_setWidth .., ?_⟩
  show (BitVec.setWidth 32 (s.mgmt.cwBase.extractLsb' 32 16)).toNat = _
  rw [BitVec.toNat_setWidth, BitVec.extractLsb'_toNat, Nat.shiftRight_eq_div_pow]
  omega

/-- What the registers of CMD_STREAMS read (R185). -/
theorem mgmtRead_streams (s : State) {k : Nat} (hk : k < 32) : (s.mgmtRead 4).getLsbD k = s.mgmt.cmdStreams.getLsbD k ∧
    (s.mgmtRead 5).getLsbD k = s.mgmt.cmdStreams.getLsbD (32 + k) := by
  refine ⟨(BitVec.getLsbD_extractLsb' ..).trans ?_, (BitVec.getLsbD_extractLsb' ..).trans ?_⟩
  · simp [hk]
  · simp [hk]

/-- A frame after a list of bits on the pins (R180, R198). -/
theorem foldl_takeSerial_select {s : State} (hlive : s.resetAsserted = false) (bits : List Bool) :
    bits.foldl (fun u b => takeSerial u (.bit b)) (takeSerial s .select) =
      { s with mgmt.frame := some ⟨bits.take 40, captureOf s bits⟩, mgmt.dout := drivenOf s bits, pending := pendingOf s bits } := by
  rw [takeSerial_select hlive, foldl_takeSerial (by exact hlive), foldl_clockBit]

/-- A read puts no command in front of the queue (R180). -/
theorem pendingOf_read (s : State) {bits : List Bool} (h : bits.head? = some false) : pendingOf s bits = s.pending :=
  if_neg fun hw => by rw [frameWrites_of_head? h] at hw; cases hw.2

/-- The fortieth bit of a write puts its command in front of the queue (R180). -/
theorem pendingOf_write (s : State) {bits : List Bool} {reg : BitVec 4} {data : BitVec 32} (h : bits.head? = some true)
    (hreg : ∀ k < 4, reg.getLsbD k = bits.getD (7 - k) false) (hdata : ∀ k < 32, data.getLsbD k = bits.getD (39 - k) false) :
    pendingOf s bits = if 40 ≤ bits.length then registerWrite reg data :: s.pending else s.pending := by
  unfold pendingOf
  by_cases hfull : 40 ≤ bits.length
  · rw [if_pos ⟨hfull, frameWrites_of_head? h⟩, if_pos hfull, frameRegister_eq (by omega) hreg, frameData_eq hfull hdata]
  · rw [if_neg fun hw => hfull hw.1, if_neg hfull]

/-- Settles O53: a step takes an event, a frame shifts its bits, and each register reads its items. -/
theorem managementFramesAreShifted : Obligations.ManagementFramesAreShifted := by
  refine ⟨fun s e rest hpending hserial => step_of_serial hpending hserial, fun s hlive => ⟨takeSerial_select hlive,
    takeSerial_deselect hlive, fun b hframe => ?_, fun bits reg data hreg hdata => ?_⟩, fun s => ?_⟩
  · rw [takeSerial_bit hlive, clockBit, hframe]
  · intro shifted value named
    have hshifted : shifted = _ := foldl_takeSerial_select hlive bits
    refine ⟨fun hshort => ?_, fun hlength hread => ?_, fun hlength hwrite => ?_⟩
    · have hcaptured : captureOf s bits = 0 := if_neg fun h => by omega
      have hdriven : drivenOf s bits = [] := by simp [drivenOf, show bits.length - 8 = 0 by omega]
      have hpending : pendingOf s bits = s.pending := if_neg fun h => by omega
      rw [hshifted, hcaptured, hdriven, hpending, List.take_of_length_le (by omega)]
    · have hcaptured : captureOf s bits = value := by
        rw [captureOf, if_pos ⟨hlength, frameWrites_of_head? hread⟩, frameRegister_eq hlength hreg]
      rw [hshifted, hcaptured, pendingOf_read s hread, drivenOf_eq s hreg]
      simp only [hread, beq_self_eq_true, Bool.true_and]
      rfl
    · have hcaptured : captureOf s bits = 0 := if_neg fun h => by rw [frameWrites_of_head? hwrite] at h; cases h.2
      have hdriven : drivenOf s bits = List.replicate (bits.length - 8) false := by
        rw [drivenOf, hcaptured]
        refine List.eq_replicate_iff.2 ⟨by simp, fun b hb => ?_⟩
        obtain ⟨k, -, hk⟩ := List.mem_map.1 hb
        rw [← hk]
        simp
      have hnamed : registerWrite reg data = named := registerWrite_eq reg data
      rw [hshifted, hcaptured, hdriven, pendingOf_write s hwrite hreg hdata, hnamed]
  · refine ⟨rfl, rfl, (mgmtRead_base s).1, (mgmtRead_base s).2, fun k hk => mgmtRead_streams s hk, ?_, rfl, mgmtRead_fault s,
      fun reg h => mgmtRead_unassigned s h⟩
    exact (mgmtRead_state s).trans
      (congrArg (fun n => s.mgmt.device.code + 256 * s.epoch.engine.code + 65536 * n) (causeCode_eq s.epoch.engine))

end Sys2Proof.Machine
end

section
/-! PROOF. Soft reset (O52): held requests and unforwarded triggers are answered RETRY, each once (R63, R99), the links keep what is
forwarded (R141), and everything else is reset (R191). -/

namespace Sys2Proof.Machine

/-! ### RETRY, once for each -/

/-- From `u` to `v` exactly the outstanding identities of `who` left the outstanding set, each with one RETRY answer. -/
structure RetriedOnce (u v : ULink) (who : Ident → Prop) (answers : List Response) : Prop where
  returned : v.returned = u.returned ++ answers
  retry : ∀ a ∈ answers, a.status = .retry ∧ who a.id ∧ a.id ∈ u.outstanding
  left : ∀ id, id ∈ v.outstanding ↔ id ∈ u.outstanding ∧ ¬ who id
  once : ∀ id ∈ u.outstanding, who id → (answers.filter (fun a => a.id == id)).length = 1

theorem RetriedOnce.nobody {who : Ident → Prop} (u : ULink) (h : ∀ id, ¬ who id) : RetriedOnce u u who [] where
  returned := (List.append_nil _).symm
  retry _ ha := absurd ha List.not_mem_nil
  left id := ⟨fun hid => ⟨hid, h id⟩, And.left⟩
  once id _ hwho := absurd hwho (h id)

theorem RetriedOnce.congr {u v : ULink} {p q : Ident → Prop} {answers : List Response} (h : RetriedOnce u v p answers)
    (hpq : ∀ id, p id ↔ q id) : RetriedOnce u v q answers := by
  have heq : p = q := funext fun id => propext (hpq id)
  exact heq ▸ h

/-- Answers one after another: those of the second run have left already if the first answered them. -/
theorem RetriedOnce.trans {u v w : ULink} {p q : Ident → Prop} {as bs : List Response} (h : RetriedOnce u v p as)
    (k : RetriedOnce v w q bs) : RetriedOnce u w (fun id => p id ∨ q id) (as ++ bs) where
  returned := by rw [k.returned, h.returned, List.append_assoc]
  retry a ha := by
    rcases List.mem_append.1 ha with ha | ha
    · obtain ⟨hstatus, hwho, hout⟩ := h.retry a ha
      exact ⟨hstatus, .inl hwho, hout⟩
    · obtain ⟨hstatus, hwho, hout⟩ := k.retry a ha
      exact ⟨hstatus, .inr hwho, ((h.left a.id).1 hout).1⟩
  left id := by rw [k.left, h.left, and_assoc, not_or]
  once id hid hwho := by
    rw [List.filter_append, List.length_append]
    by_cases hp : p id
    · have hsecond : bs.filter (fun a => a.id == id) = [] := by
        refine List.filter_eq_nil_iff.2 fun a ha heq => ?_
        obtain ⟨-, -, hout⟩ := k.retry a ha
        exact ((h.left id).1 (beq_iff_eq.1 heq ▸ hout)).2 hp
      rw [h.once id hid hp, hsecond]
      rfl
    · have hfirst : as.filter (fun a => a.id == id) = [] := by
        refine List.filter_eq_nil_iff.2 fun a ha heq => ?_
        obtain ⟨-, hwhom, -⟩ := h.retry a ha
        exact hp (beq_iff_eq.1 heq ▸ hwhom)
      rw [hfirst, k.once id ((h.left id).2 ⟨hid, hp⟩) (hwho.resolve_left hp)]
      rfl

/-- One RETRY answer (R130). -/
theorem respond_retriedOnce (s : State) (k : ReqKind) (id : Ident) (d : List Byte) :
    ∃ answers, RetriedOnce s.ulink (respond s k id .retry d).ulink (fun i => i = id) answers := by
  by_cases hout : id ∈ s.ulink.outstanding
  · refine ⟨[⟨k, id, .retry, d⟩], ?_, ?_, fun i => mem_outstanding_respond, ?_⟩
    · rw [respond_of_mem hout]
    · simp [hout]
    · rintro i - rfl
      simp
  · refine ⟨[], ?_, by simp, fun i => mem_outstanding_respond, fun i hi hid => absurd (hid ▸ hi) hout⟩
    rw [respond_of_not_mem hout]
    simp

/-- A run of operations, each of which answers its identities once, answers those of all of them once; `inv` is what the operations
leave alone. -/
theorem RetriedOnce.foldl {α : Type} {f : State → α → State} {inv : State → Prop} {who : α → Ident → Prop}
    (hinv : ∀ s a, inv s → inv (f s a)) (hf : ∀ s a, inv s → ∃ answers, RetriedOnce s.ulink (f s a).ulink (who a) answers)
    (l : List α) (s : State) (hs : inv s) :
    ∃ answers, RetriedOnce s.ulink (l.foldl f s).ulink (fun id => ∃ a ∈ l, who a id) answers := by
  induction l generalizing s with
  | nil => exact ⟨[], .nobody _ (by simp)⟩
  | cons a l ih =>
    obtain ⟨as, has⟩ := hf s a hs
    obtain ⟨bs, hbs⟩ := ih (f s a) (hinv s a hs)
    exact ⟨as ++ bs, (has.trans hbs).congr fun id => by simp⟩

/-! ### Who is answered -/

/-- The slot holds a trigger with this identity that has not been forwarded (R63). -/
def Capture.unforwardedIn (c : Capture) (i : Fin 8) (id : Ident) : Prop :=
  ∃ (x : CaptureSlot) (r : Request), c.slots[i] = some x ∧ x.phase ≠ .forwarding ∧ x.trigger = some r ∧ r.id = id

/-- A slot's trigger that has not been forwarded is answered, and nothing else (R63). -/
theorem retryTrigger_retriedOnce (s : State) (i : Fin 8) :
    ∃ answers, RetriedOnce s.ulink (retryTrigger s i).ulink (s.capture.unforwardedIn i) answers := by
  have hnobody (h : ∀ id, ¬ s.capture.unforwardedIn i id) (hkeep : retryTrigger s i = s) :
      ∃ answers, RetriedOnce s.ulink (retryTrigger s i).ulink (s.capture.unforwardedIn i) answers :=
    ⟨[], by rw [hkeep]; exact .nobody _ h⟩
  have hslot : s.capture.slot? i = s.capture.slots[i] := rfl
  rcases Option.eq_none_or_eq_some s.capture.slots[i] with hc | ⟨c, hc⟩
  · refine hnobody ?_ (by simp only [retryTrigger, hslot, hc])
    rintro id ⟨x, r, hx, -⟩
    rw [hc] at hx
    cases hx
  rcases Option.eq_none_or_eq_some c.trigger with ht | ⟨r, ht⟩
  · refine hnobody ?_ (by simp only [retryTrigger, hslot, hc, ht])
    rintro id ⟨x, r, hx, -, hr, -⟩
    rw [hc] at hx
    cases hx
    rw [ht] at hr
    cases hr
  have hanswer (hphase : c.phase ≠ .forwarding) (hretry : retryTrigger s i = respond s .write r.id .retry []) :
      ∃ answers, RetriedOnce s.ulink (retryTrigger s i).ulink (s.capture.unforwardedIn i) answers := by
    obtain ⟨answers, h⟩ := respond_retriedOnce s .write r.id []
    refine ⟨answers, hretry ▸ h.congr fun id => ⟨fun hid => ⟨c, r, hc, hphase, ht, hid.symm⟩, ?_⟩⟩
    rintro ⟨x, r', hx, -, hr, hid⟩
    rw [hc] at hx
    cases hx
    rw [ht] at hr
    cases hr
    exact hid.symm
  cases hp : c.phase with
  | readingOld => exact hanswer (by simp [hp]) (by simp only [retryTrigger, hslot, hc, ht, hp])
  | writingRecord => exact hanswer (by simp [hp]) (by simp only [retryTrigger, hslot, hc, ht, hp])
  | forwarding =>
    refine hnobody ?_ (by simp only [retryTrigger, hslot, hc, ht, hp])
    rintro id ⟨x, r', hx, hphase, -⟩
    rw [hc] at hx
    cases hx
    exact hphase hp

/-- The identities a soft reset answers RETRY (R63, R99). -/
def State.unforwarded (s : State) (id : Ident) : Prop :=
  (∃ e ∈ s.hold.entries, e.request.id = id) ∨
  ∃ (i : Fin 8) (c : CaptureSlot) (r : Request), s.capture.slots[i] = some c ∧ c.phase ≠ .forwarding ∧ c.trigger = some r ∧ r.id = id

/-- A soft reset answers held requests and unforwarded triggers, each once (R63, R99). -/
theorem softReset_retriedOnce (s : State) (enable : Bool) :
    ∃ answers, RetriedOnce s.ulink (softReset s enable).ulink s.unforwarded answers := by
  rw [softReset_ulink, softResetAnswered]
  obtain ⟨as, has⟩ := RetriedOnce.foldl (f := retryTrigger) (inv := fun t => t.capture = s.capture)
    (who := fun i => s.capture.unforwardedIn i)
    (fun t i h => by obtain ⟨u, hu⟩ := retryTrigger_frame t i; rw [hu]; exact h)
    (fun t i h => h ▸ retryTrigger_retriedOnce t i) allSlots { s with mgmt.cwEnable := enable } rfl
  obtain ⟨bs, hbs⟩ := RetriedOnce.foldl (f := retryEntry) (inv := fun _ => True) (who := fun e id => id = e.request.id)
    (fun _ _ h => h) (fun t e _ => respond_retriedOnce t _ _ _) s.hold.entries
    (allSlots.foldl retryTrigger { s with mgmt.cwEnable := enable }) trivial
  refine ⟨as ++ bs, (has.trans hbs).congr fun id => ?_⟩
  constructor
  · rintro (⟨i, -, c, r, h⟩ | ⟨e, he, hid⟩)
    · exact .inr ⟨i, c, r, h⟩
    · exact .inl ⟨e, he, hid.symm⟩
  · rintro (⟨e, he, hid⟩ | ⟨i, c, r, h⟩)
    · exact .inr ⟨e, he, hid.symm⟩
    · exact .inl ⟨i, mem_allSlots i, c, r, h⟩

/-! ### What a soft reset keeps -/

/-- A soft reset, but for the answers (R191). -/
theorem softReset_frame (s : State) (enable : Bool) : ∃ u, softReset s enable =
    { State.reset with
      mgmt := { s.mgmt with device := if enable then .listening else .offline, cwEnable := enable, time := 0 }
      ulink := u, dlink := s.dlink.softReset s.capture, status.asked := enable
      resetAsserted := s.resetAsserted, pending := s.pending, serial := s.serial } := by
  obtain ⟨v, hv⟩ := foldl_ulink_frame retryTrigger_frame allSlots { s with mgmt.cwEnable := enable }
  obtain ⟨u, hu⟩ := foldl_ulink_frame retryEntry_frame s.hold.entries { s with mgmt.cwEnable := enable, ulink := v }
  have hblocks : s.hold.entries.foldl retryEntry (allSlots.foldl retryTrigger { s with mgmt.cwEnable := enable }) =
      { s with mgmt.cwEnable := enable, ulink := u } := by rw [hv, hu]
  refine ⟨u, ?_⟩
  unfold softReset softResetBlocks
  simp only
  rw [hblocks]
  cases enable <;> rfl

/-- Settles O52: the blocks are reset, the links keep what is forwarded, and each other request is answered RETRY once. -/
theorem softResetKeepsTheLinks : Obligations.SoftResetKeepsTheLinks := by
  intro s enable hs kept unforwarded
  obtain ⟨answers, hreturned, hretry, hleft, honce⟩ := softReset_retriedOnce (writeFrame s) enable
  obtain ⟨u, hframe⟩ := softReset_frame (writeFrame s) enable
  have horigin : Origin.afterSoftReset s.capture = kept := by
    funext o
    cases o <;> rfl
  have hlinks : (writeFrame s).dlink.softReset (writeFrame s).capture = ⟨s.dlink.forward.map (fun q => { q with origin := kept q.origin }),
      [], [], [], .report, s.dlink.inUse.map (fun u => { u with origin := kept u.origin }), s.dlink.issued⟩ := by rw [← horigin]; rfl
  have hlive : (writeFrame s).resetAsserted = false := hs.1
  rw [hlinks, hlive] at hframe
  have hexec := exec_settled (c := .softReset enable) (by simp) (by simp) hs rfl
  have heffect : effectOf (.softReset enable) s = softReset (writeFrame s) enable := rfl
  rw [heffect] at hexec
  refine ⟨_, hexec, ?_, fun id => ?_, answers, ?_, fun a ha => ?_, honce⟩
  · rw [hframe]
    cases enable with
    | true => rw [settle_of_asked rfl]; rfl
    | false => rw [settle_of_quiet rfl]; rfl
  · rw [settle_frame]
    exact hleft id
  · rw [settle_frame]
    exact hreturned
  · obtain ⟨hstatus, hwho, -⟩ := hretry a ha
    exact ⟨hstatus, hwho⟩

end Sys2Proof.Machine
end

section
/-! PROOF. Formats (O54, O55): record headers (R77, R79, R80, R195), notices (R193, R196) and status blocks (R157, R197). Each field is
cut out of the bytes it stands in, which is a computation on the list's shape alone, and then read as a little-endian number. -/

namespace Sys2Proof.Machine

/-! ### Fields of a list of bytes -/

/-- A field that holds a number. -/
theorem field_number {bs : List Byte} {offset n v : Nat} (h : (bs.drop offset).take n = leBytes n v) :
    leValue ((bs.drop offset).take n) = v % 256 ^ n := by rw [h, leValue_leBytes]

/-- A field that holds a word it is wide enough for. -/
theorem field_word {w : Nat} {bs : List Byte} {offset n : Nat} {x : BitVec w} (hw : w ≤ 8 * n)
    (h : (bs.drop offset).take n = leBytes n x.toNat) : leValue ((bs.drop offset).take n) = x.toNat := by
  rw [h, leValue_leBytes]
  refine Nat.mod_eq_of_lt (x.isLt.trans_le ?_)
  rw [show (256 : Nat) = 2 ^ 8 from rfl, ← Nat.pow_mul]
  exact Nat.pow_le_pow_right (by decide) hw

theorem leValue_singleton (b : Byte) : leValue [b] = b.toNat := by simp [leValue]

/-- A field of one byte. -/
theorem field_byte {bs : List Byte} {offset : Nat} {b : Byte} (h : (bs.drop offset).take 1 = [b]) :
    leValue ((bs.drop offset).take 1) = b.toNat := by rw [h, leValue_singleton]

/-- A field of one byte that holds a small number. -/
theorem field_code {bs : List Byte} {offset v : Nat} (hv : v < 256) (h : (bs.drop offset).take 1 = [BitVec.ofNat 8 v]) :
    leValue ((bs.drop offset).take 1) = v := by
  rw [field_byte h, BitVec.toNat_ofNat]
  exact Nat.mod_eq_of_lt hv

/-- A field of one byte that holds the low byte of a number. -/
theorem field_lowByte {bs : List Byte} {offset v : Nat} (h : (bs.drop offset).take 1 = [BitVec.ofNat 8 v]) :
    leValue ((bs.drop offset).take 1) = v % 256 := by rw [field_byte h, BitVec.toNat_ofNat]

/-- A field of one byte that holds a stream number. -/
theorem field_stream {bs : List Byte} {offset : Nat} {x : BitVec 6} (h : (bs.drop offset).take 1 = [x.setWidth 8]) :
    leValue ((bs.drop offset).take 1) = x.toNat := by
  rw [field_byte h, BitVec.toNat_setWidth]
  exact Nat.mod_eq_of_lt (by have := x.isLt; omega)

theorem leValue_zeroBytes (n : Nat) : leValue (zeroBytes n) = 0 := by
  induction n with
  | zero => rfl
  | succ n ih =>
    have hcons : zeroBytes (n + 1) = 0#8 :: zeroBytes n := rfl
    rw [hcons, leValue, ih]
    rfl

/-- A field of zeros. -/
theorem field_zeros {bs : List Byte} {offset n : Nat} (h : (bs.drop offset).take n = zeroBytes n) :
    leValue ((bs.drop offset).take n) = 0 := by rw [h, leValue_zeroBytes]

theorem granuleAddr_toNat (g : Granule) : (granuleAddr g).toNat = g.toNat * 256 := by
  rw [granuleAddr, toNat_append]
  simp

/-- A word that a field holds. -/
theorem ofNat_of_field {w v : Nat} {x : BitVec w} (h : v = x.toNat) : BitVec.ofNat w v = x := by
  rw [h, BitVec.ofNat_toNat, BitVec.setWidth_eq]

/-- A field of one byte that holds a flag. -/
theorem field_flag {bs : List Byte} {offset : Nat} {b : Bool} (h : (bs.drop offset).take 1 = [if b then 1 else 0]) :
    leValue ((bs.drop offset).take 1) = if b then 1 else 0 := by
  rw [field_byte h]
  cases b <;> rfl

/-- A field that holds the address of a granule. -/
theorem field_granule {bs : List Byte} {offset n : Nat} {g : Granule} (hn : 48 ≤ 8 * n)
    (h : (bs.drop offset).take n = leBytes n (granuleAddr g).toNat) : leValue ((bs.drop offset).take n) = g.toNat * 256 :=
  (field_word hn h).trans (granuleAddr_toNat g)

/-! ### Record headers -/

/-- Settles O54: each field is read back from the bytes that were sealed. -/
theorem headersReadBack : Obligations.HeadersReadBack := by
  refine ⟨fun c crc => ?_, fun c => ?_, fun q epoch records spills origin => ?_⟩
  · intro h
    have hread {offset n : Nat} (hfit : offset + n ≤ 60) : fieldAt h offset n = _ := fieldAt_sealHeader rfl hfit
    refine ⟨sealHeader_ok rfl, (hread (by decide)).trans (field_code (v := 1) (by decide) rfl), ?_, ?_, ?_, ?_, ?_, ?_, ?_, ?_, ?_⟩
    · exact ofNat_of_field ((hread (by decide)).trans (field_word (by decide) rfl))
    · exact ofNat_of_field ((hread (by decide)).trans (field_word (by decide) rfl))
    · exact ofNat_of_field ((hread (by decide)).trans (field_word (by decide) rfl))
    · exact ofNat_of_field ((hread (by decide)).trans (field_word (x := granuleAddr c.granule) (by decide) rfl))
    · exact (hread (by decide)).trans (field_flag rfl)
    · exact (hread (by decide)).trans (field_code (by omega) rfl)
    · exact (hread (by decide)).trans (field_stream rfl)
    · exact (hread (by decide)).trans (field_granule (by decide) rfl)
    · exact (hread (by decide)).trans (field_zeros rfl)
  · intro h
    have hread {offset n : Nat} (hfit : offset + n ≤ 60) : fieldAt h offset n = _ := fieldAt_sealHeader rfl hfit
    refine ⟨sealHeader_ok rfl, (hread (by decide)).trans (field_code (v := 3) (by decide) rfl), ?_, ?_, ?_, ?_, ?_, ?_, ?_, ?_, ?_, ?_,
      ?_⟩
    · exact ofNat_of_field ((hread (by decide)).trans (field_word (by decide) rfl))
    · exact ofNat_of_field ((hread (by decide)).trans (field_word (by decide) rfl))
    · exact ofNat_of_field ((hread (by decide)).trans (field_word (x := granuleAddr c.granule) (by decide) rfl))
    · exact (hread (by decide)).trans (field_flag rfl)
    · exact (hread (by decide)).trans (field_code (by omega) rfl)
    · exact (hread (by decide)).trans (field_stream rfl)
    · exact (hread (by decide)).trans (field_zeros rfl)
    · exact (hread (by decide)).trans (field_granule (by decide) rfl)
    · exact (hread (by decide)).trans (field_zeros rfl)
    · exact (hread (by decide)).trans (field_code (v := 1) (by decide) rfl)
    · exact (hread (by decide)).trans (field_zeros rfl)
  · intro h
    have hread {offset n : Nat} (hfit : offset + n ≤ 60) : fieldAt h offset n = _ := fieldAt_sealHeader rfl hfit
    refine ⟨sealHeader_ok rfl, (hread (by decide)).trans (field_code (v := 2) (by decide) rfl), ?_, ?_, ?_, ?_, ?_, ?_, ?_, ?_⟩
    · exact ofNat_of_field ((hread (by decide)).trans (field_word (by decide) rfl))
    · exact ofNat_of_field ((hread (by decide)).trans (field_word (by decide) rfl))
    · exact (hread (by decide)).trans (field_zeros rfl)
    · exact (hread (by decide)).trans (field_zeros rfl)
    · exact (hread (by decide)).trans (field_number rfl)
    · exact (hread (by decide)).trans (field_number rfl)
    · refine (hread (by decide)).trans ((field_byte rfl).trans ?_)
      cases origin <;> rfl
    · exact (hread (by decide)).trans (field_zeros rfl)

end Sys2Proof.Machine
end

section
/-! PROOF. Notices and status blocks (O55): their layouts (R196, R197), and the codes in them (R193). -/

namespace Sys2Proof.Machine

/-! ### Notices -/

theorem payload_length (b : NoticeBody) : b.payload.length = 18 := by cases b <;> rfl

/-- The first fourteen bytes of a notice, which every kind has (R196). -/
theorem noticeHead_reads (n : Notice) {lap : Nat} (hlap : lap < 2) :
    let at' (offset size : Nat) : Nat := leValue (((n.bytes lap).drop offset).take size)
    (n.bytes lap).length = 32 ∧ at' 0 1 = n.body.code ∧ at' 1 1 = lap + (if n.body.identityPresent then 2 else 0) ∧
      at' 2 4 = n.sequence.toNat ∧ at' 6 4 = n.time.toNat ∧ at' 10 4 = n.epoch.toNat := by
  have hcode : n.body.code < 256 := by cases n.body <;> simp [NoticeBody.code]
  have hmark : lap + (if n.body.identityPresent then 2 else 0) < 256 := by split <;> omega
  refine ⟨?_, field_code hcode rfl, field_code hmark rfl, field_word (by decide) rfl, field_word (by decide) rfl,
    field_word (by decide) rfl⟩
  simp [Notice.bytes, payload_length]

theorem Result.code_lt (r : Result) : r.code < 256 := by cases r <;> decide
theorem DropReason.code_lt (r : DropReason) : r.code < 256 := by cases r <;> decide
theorem MarkOrigin.code_lt (o : MarkOrigin) : o.code < 256 := by cases o <;> decide
theorem BrokenCause.code_lt (c : BrokenCause) : c.code < 256 := by cases c <;> decide
theorem RestoreReason.code_lt (r : RestoreReason) : r.code < 256 := by cases r <;> decide
theorem HoldCause.code_lt (c : HoldCause) : c.code < 256 := by cases c <;> decide
theorem reqKindCode_lt (k : ReqKind) : reqKindCode k < 256 := by cases k <;> decide

/-! ### Status blocks -/

/-- The zeros after the bytes a line is built from are part of it. -/
theorem lineOfBytes_append_zeroBytes (bs : List Byte) (n : Nat) : lineOfBytes (bs ++ zeroBytes n) = lineOfBytes bs := by
  have hbyte (i : Nat) : (bs ++ zeroBytes n).getD i 0 = bs.getD i 0 := by
    by_cases h : i < bs.length
    · rw [List.getD_append _ _ _ _ h]
    · rw [List.getD_append_right _ _ _ _ (by omega), List.getD_eq_default bs 0 (by omega)]
      simp only [zeroBytes, List.getD_eq_getElem?_getD, List.getElem?_replicate]
      split <;> rfl
  simp only [lineOfBytes, hbyte]

/-- A field of a line, of which the bytes it is built from are the first. -/
theorem fieldAt_lineOfBytes_zeros {bs : List Byte} {offset n : Nat} (k : Nat) (hlength : bs.length + k = 64) (h : offset + n ≤ 64) :
    fieldAt (lineOfBytes bs) offset n = leValue (((bs ++ zeroBytes k).drop offset).take n) := by
  have hpadded : (bs ++ zeroBytes k).length = 64 := by simpa [zeroBytes] using hlength
  rw [← lineOfBytes_append_zeroBytes bs k]
  exact fieldAt_lineOfBytes (by omega) (by omega)

theorem Engine.causeCode_lt (e : Engine) : e.causeCode < 256 := by
  cases e with
  | broken c => exact c.code_lt
  | _ => decide

theorem busyCount_lt (c : Capture) : c.busyCount < 256 := by
  have h := List.length_filter_le (fun o => o.isSome) c.slots.toList
  rw [Vector.length_toList] at h
  exact Nat.lt_of_le_of_lt h (by decide)

/-- Line 60 of a status block (R197). -/
theorem statusLine60_reads (s : State) (q : BitVec 32) :
    let line := (statusBlock s q)[0]
    fieldAt line 0 4 = q.toNat ∧ fieldAt line 4 1 = s.mgmt.device.code ∧ fieldAt line 5 1 = s.epoch.engine.code ∧
      fieldAt line 6 1 = s.epoch.engine.causeCode ∧ fieldAt line 7 1 = s.mgmt.fault.code ∧
      fieldAt line 8 4 = s.epoch.current.toNat ∧ fieldAt line 12 1 = s.epoch.index.length % 256 ∧
      fieldAt line 13 1 = s.capture.busyCount ∧ fieldAt line 14 1 = s.hold.entries.length % 256 ∧ fieldAt line 15 1 = 0 ∧
      fieldAt line 16 4 = (s.epoch.index.head?.map (fun e => e.number.toNat)).getD 0 ∧
      fieldAt line 20 4 = (s.epoch.target.map (fun n => n.toNat)).getD 0 ∧
      fieldAt line 24 4 = s.epoch.captureCount % 4294967296 ∧ fieldAt line 28 4 = s.epoch.spillCount % 4294967296 ∧
      fieldAt line 32 32 = 0 := by
  intro line
  have hread {offset n : Nat} (hfit : offset + n ≤ 64) : fieldAt line offset n = _ := fieldAt_lineOfBytes_zeros 32 rfl hfit
  have hdevice : s.mgmt.device.code < 256 := by cases s.mgmt.device <;> decide
  have hengine : s.epoch.engine.code < 256 := by cases s.epoch.engine <;> simp [Engine.code]
  have hfault : s.mgmt.fault.code < 256 := by
    unfold FaultBits.code
    split_ifs <;> decide
  refine ⟨?_, ?_, ?_, ?_, ?_, ?_, ?_, ?_, ?_, ?_, ?_, ?_, ?_, ?_, ?_⟩
  · exact (hread (by decide)).trans (field_word (by decide) rfl)
  · exact (hread (by decide)).trans (field_code hdevice rfl)
  · exact (hread (by decide)).trans (field_code hengine rfl)
  · exact (hread (by decide)).trans (field_code s.epoch.engine.causeCode_lt rfl)
  · exact (hread (by decide)).trans (field_code hfault rfl)
  · exact (hread (by decide)).trans (field_word (by decide) rfl)
  · exact (hread (by decide)).trans (field_lowByte rfl)
  · exact (hread (by decide)).trans (field_code (busyCount_lt s.capture) rfl)
  · exact (hread (by decide)).trans (field_lowByte rfl)
  · exact (hread (by decide)).trans (field_zeros rfl)
  · refine (hread (by decide)).trans ((field_number rfl).trans ?_)
    cases s.epoch.index.head? with
    | none => rfl
    | some e => exact Nat.mod_eq_of_lt e.number.isLt
  · refine (hread (by decide)).trans ((field_number rfl).trans ?_)
    cases s.epoch.target with
    | none => rfl
    | some n => exact Nat.mod_eq_of_lt n.isLt
  · exact (hread (by decide)).trans (field_number rfl)
  · exact (hread (by decide)).trans (field_number rfl)
  · exact (hread (by decide)).trans (field_zeros rfl)

/-- Line 61 of a status block (R197). -/
theorem statusLine61_reads (s : State) (q : BitVec 32) :
    let line := (statusBlock s q)[1]
    fieldAt line 0 4 = s.journal.head.toNat ∧ fieldAt line 4 4 = s.journal.frontier.toNat ∧
      fieldAt line 8 4 = s.journal.release.toNat ∧ fieldAt line 12 4 = s.journal.slots % 4294967296 ∧
      fieldAt line 16 4 = s.restore.cursor.toNat ∧ fieldAt line 20 44 = 0 := by
  intro line
  have hread {offset n : Nat} (hfit : offset + n ≤ 64) : fieldAt line offset n = _ := fieldAt_lineOfBytes_zeros 44 rfl hfit
  refine ⟨?_, ?_, ?_, ?_, ?_, ?_⟩
  · exact (hread (by decide)).trans (field_word (by decide) rfl)
  · exact (hread (by decide)).trans (field_word (by decide) rfl)
  · exact (hread (by decide)).trans (field_word (by decide) rfl)
  · exact (hread (by decide)).trans (field_number rfl)
  · exact (hread (by decide)).trans (field_word (by decide) rfl)
  · exact (hread (by decide)).trans (field_zeros rfl)

/-- Line 62 of a status block (R197). -/
theorem statusLine62_reads (s : State) (q : BitVec 32) :
    let line := (statusBlock s q)[2]
    fieldAt line 0 4 = s.notice.writePos.toNat ∧ fieldAt line 4 4 = s.notice.ackPos.toNat ∧
      fieldAt line 8 4 = s.notice.overrunTotal % 4294967296 ∧ fieldAt line 12 4 = s.cmd.taken.toNat ∧
      (∀ c, s.cmd.last = some c → fieldAt line 16 2 = c.tag.toNat ∧ fieldAt line 18 1 = c.opcode.toNat ∧
        fieldAt line 19 1 = c.result.code) ∧
      (s.cmd.last = none → fieldAt line 16 4 = 0) ∧ fieldAt line 20 44 = 0 := by
  intro line
  have hread {offset n : Nat} (hfit : offset + n ≤ 64) : fieldAt line offset n = _ := fieldAt_lineOfBytes_zeros 44 rfl hfit
  refine ⟨?_, ?_, ?_, ?_, fun c hlast => ⟨?_, ?_, ?_⟩, fun hlast => ?_, ?_⟩
  · exact (hread (by decide)).trans (field_word (by decide) rfl)
  · exact (hread (by decide)).trans (field_word (by decide) rfl)
  · exact (hread (by decide)).trans (field_number rfl)
  · exact (hread (by decide)).trans (field_word (by decide) rfl)
  · refine (hread (by decide)).trans (field_word (by decide) ?_)
    rw [hlast]
    rfl
  · refine (hread (by decide)).trans (field_byte ?_)
    rw [hlast]
    rfl
  · refine (hread (by decide)).trans (field_code c.result.code_lt ?_)
    rw [hlast]
    rfl
  · refine (hread (by decide)).trans (field_zeros ?_)
    rw [hlast]
    rfl
  · exact (hread (by decide)).trans (field_zeros rfl)

/-- Line 63 of a status block (R197). -/
theorem statusLine63_reads (s : State) (q : BitVec 32) :
    fieldAt (statusBlock s q)[3] 0 60 = 0 ∧ fieldAt (statusBlock s q)[3] 60 4 = q.toNat :=
  ⟨(fieldAt_lineOfBytes_zeros 0 rfl (by decide)).trans (field_zeros rfl),
    (fieldAt_lineOfBytes_zeros 0 rfl (by decide)).trans (field_word (by decide) rfl)⟩

/-- Settles O55: the codes, the layout of each kind of notice, and the four lines of a status block. -/
theorem noticesAndStatusBlocksHoldTheirFields : Obligations.NoticesAndStatusBlocksHoldTheirFields := by
  refine ⟨by decide, fun n lap hlap => ?_, fun s q => ?_⟩
  · have hhead := noticeHead_reads n hlap
    obtain ⟨body, sequence, time, epoch⟩ := n
    intro bytes at' head
    cases body with
    | commandDone tag opcode result =>
      exact ⟨hhead, field_word (by decide) rfl, field_byte rfl, field_code result.code_lt rfl, field_zeros rfl⟩
    | commandDropped reason stream line tagOpcode =>
      refine ⟨hhead, ?_, ?_, field_code reason.code_lt rfl, field_stream rfl, field_lowByte rfl, field_zeros rfl⟩
      · rintro tag opcode rfl
        exact ⟨field_word (by decide) rfl, field_byte rfl⟩
      · rintro rfl
        exact field_zeros rfl
    | foreignCommand stream line => exact ⟨hhead, field_zeros rfl, field_stream rfl, field_lowByte rfl, field_zeros rfl⟩
    | epochCommitted epoch marker count origin =>
      exact ⟨hhead, field_code origin.code_lt rfl, field_zeros rfl, field_word (by decide) rfl, field_word (by decide) rfl,
        field_number rfl, field_zeros rfl⟩
    | epochBroken cause epoch =>
      exact ⟨hhead, field_code cause.code_lt rfl, field_zeros rfl, field_word (by decide) rfl, field_zeros rfl⟩
    | epochRolledBack target newEpoch applied =>
      exact ⟨hhead, field_zeros rfl, field_word (by decide) rfl, field_word (by decide) rfl, field_number rfl, field_zeros rfl⟩
    | restoreFault reason sequence target applied =>
      exact ⟨hhead, field_code reason.code_lt rfl, field_zeros rfl, field_word (by decide) rfl, field_word (by decide) rfl,
        field_number rfl, field_zeros rfl⟩
    | captureFault granule sequence epoch trigger =>
      refine ⟨hhead, ?_, ?_, field_word (by decide) rfl, field_word (by decide) rfl, field_granule (by decide) rfl, field_zeros rfl⟩
      · rintro id rfl
        exact ⟨field_stream rfl, field_byte rfl⟩
      · rintro rfl
        exact field_zeros rfl
    | holdExpired cause kind id addr window =>
      exact ⟨hhead, field_code cause.code_lt rfl, field_code (reqKindCode_lt kind) rfl, field_stream rfl, field_byte rfl,
        field_code (by omega) rfl, field_zeros rfl, field_word (by decide) rfl, field_zeros rfl⟩
    | journalLow free lwm headSeq frontier release =>
      exact ⟨hhead, field_number rfl, field_number rfl, field_word (by decide) rfl, field_word (by decide) rfl,
        field_word (by decide) rfl⟩
    | guardHit window id addr length =>
      exact ⟨hhead, field_code (by omega) rfl, field_stream rfl, field_byte rfl, field_lowByte rfl, field_zeros rfl,
        field_word (by decide) rfl, field_zeros rfl⟩
    | noticeOverrun lost => exact ⟨hhead, field_zeros rfl, field_number rfl, field_zeros rfl⟩
  · obtain ⟨h0, h1, h2, hcause, hrest⟩ := statusLine60_reads s q
    exact ⟨⟨h0, h1, h2, hcause.trans (causeCode_eq _), hrest⟩, statusLine61_reads s q, statusLine62_reads s q, statusLine63_reads s q⟩

end Sys2Proof.Machine
end
